-- ==== Sys2Proof/Word.lean ====
section
/-! DEFINITION. The word types of the decoder: the input byte, the 4-bit and 7-bit register widths
of spec 10_state.md rule R20, and the undecoded 3-bit field of the system bytes (30_encoding.md rules R73, R74). -/

namespace Sys2Proof

/-- One input byte, bit 7 the most significant (R7, R53). -/
abbrev Byte := BitVec 8

/-- Width of `CMD` and `CHAN` (R20). -/
abbrev Nibble := BitVec 4

/-- Width of `D1`, `D2` and of a data-byte operand (R20, R75). -/
abbrev Data7 := BitVec 7

/-- The low three bits of a system byte, which no rule decodes (R73, R74). -/
abbrev Bits3 := BitVec 3

end Sys2Proof
end

