-- ==== Sys2Proof/Syntax.lean ====
section
/-! DEFINITION. The instructions: one constructor per row of spec/opcode_table.json. An instruction is one
input byte together with the rule it selects; the eight data rows share one encoding and are told apart by
`CMD` (30_encoding.md rule R70, 41_data_bytes.md rule R120). -/

namespace Sys2Proof

/-- One row of the opcode table with its operand. `n` is the channel nibble (R71), `x` the undecoded low
bits of a system byte (R73, R74; kept so that the encoding is exact, log 16), `v` the data operand (R75). -/
inductive Instr where
  | vsNoteoff (n : Nibble)
  | vsNoteon (n : Nibble)
  | vsPolyat (n : Nibble)
  | vsCc (n : Nibble)
  | vsProgchg (n : Nibble)
  | vsChanpress (n : Nibble)
  | vsPitchbend (n : Nibble)
  | sysCommon (x : Bits3)
  | sysRealtime (x : Bits3)
  | dataIdle (v : Data7)
  | dataNoteoff (v : Data7)
  | dataNoteon (v : Data7)
  | dataProgchg (v : Data7)
  | dataChanpress (v : Data7)
  | dataPolyat (v : Data7)
  | dataCc (v : Data7)
  | dataPitchbend (v : Data7)
deriving DecidableEq, Repr

end Sys2Proof
end

