-- ==== Sys2Proof/WellFormed.lean ====
section
/-! DEFINITION. Which instruction may stand under which `CMD`: the opcode table's `state_condition` column.
Operand ranges need no check, since each operand's type is its field's width. -/

namespace Sys2Proof

/-- The values `CMD` takes at step boundaries (R21, R33). -/
def legalCmd (cmd : Nibble) : Bool :=
  cmd == 0x0 || cmd == 0x8 || cmd == 0x9 || cmd == 0xA || cmd == 0xB || cmd == 0xC || cmd == 0xD || cmd == 0xE

/-- The table's state condition: `none` for "any", `some k` for "CMD == k". -/
def Instr.stateCond : Instr → Option Nibble
  | .vsNoteoff _ | .vsNoteon _ | .vsPolyat _ | .vsCc _ | .vsProgchg _ | .vsChanpress _ | .vsPitchbend _ => none
  | .sysCommon _ | .sysRealtime _ => none
  | .dataIdle _ => some 0x0
  | .dataNoteoff _ => some 0x8
  | .dataNoteon _ => some 0x9
  | .dataProgchg _ => some 0xC
  | .dataChanpress _ => some 0xD
  | .dataPolyat _ => some 0xA
  | .dataCc _ => some 0xB
  | .dataPitchbend _ => some 0xE

/-- Well-formedness of an instruction under a running status: the table's state condition holds (R120). -/
def Instr.wf (cmd : Nibble) (i : Instr) : Bool :=
  match i.stateCond with
  | none => true
  | some k => cmd == k

end Sys2Proof
end

