-- ==== Sys2Proof/Decode.lean ====
section
/-! DEFINITION. Decoding an input byte under the running status `CMD`, the encoder, and the opcode table as
mask and pattern rows. Every byte under every `CMD` decodes (spec 30_encoding.md rules R70, R78). -/

namespace Sys2Proof

/-- `b[7:4]` (R7). -/
def hiNibble (b : Byte) : Nibble := b.extractLsb' 4 4

/-- `b[3:0]` (R7). -/
def loNibble (b : Byte) : Nibble := b.extractLsb' 0 4

/-- `b[7:3]` (R70). -/
def hiFive (b : Byte) : BitVec 5 := b.extractLsb' 3 5

/-- `b[2:0]` (R73, R74). -/
def loThree (b : Byte) : Bits3 := b.extractLsb' 0 3

/-- `b[6:0]` (R75). -/
def loSeven (b : Byte) : Data7 := b.extractLsb' 0 7

/-- The row of a voice status byte, by its command nibble 0x8 … 0xE (R71, R72). `decode` calls it
on those nibbles only. -/
def decodeVoice (k n : Nibble) : Instr :=
  if k = 0x8 then .vsNoteoff n
  else if k = 0x9 then .vsNoteon n
  else if k = 0xA then .vsPolyat n
  else if k = 0xB then .vsCc n
  else if k = 0xC then .vsProgchg n
  else if k = 0xD then .vsChanpress n
  else .vsPitchbend n

/-- The row of a data byte, by `CMD` as read before the step (R120).
DESIGN CHOICE (log 5): the unreachable values 0x1–0x7 and 0xF go to the generic two-byte rule R127, as R120
allows, through the last generic row, whose meaning reads the command from `CMD`. -/
def decodeData (cmd : Nibble) (v : Data7) : Instr :=
  if cmd = 0x0 then .dataIdle v
  else if cmd = 0x8 then .dataNoteoff v
  else if cmd = 0x9 then .dataNoteon v
  else if cmd = 0xC then .dataProgchg v
  else if cmd = 0xD then .dataChanpress v
  else if cmd = 0xA then .dataPolyat v
  else if cmd = 0xB then .dataCc v
  else .dataPitchbend v

/-- The instruction a byte is under `CMD`, the classes tested in the order of R70 and R100. -/
def decode (cmd : Nibble) (b : Byte) : Instr :=
  if b.getLsbD 7 = true ∧ hiNibble b ≠ 0xF then decodeVoice (hiNibble b) (loNibble b)
  else if hiFive b = 0b11110 then .sysCommon (loThree b)
  else if hiFive b = 0b11111 then .sysRealtime (loThree b)
  else decodeData cmd (loSeven b)

/-- Why no instruction could be read from a list of bytes. -/
inductive DecodeReject where
  /-- No byte stands there: the decoder waits for its next byte (R36, R211). No byte VALUE is ever rejected (R78). -/
  | noByte
deriving DecidableEq, Repr

/-- What reading an instruction off a list of bytes gives. -/
inductive DecodeResult where
  | instr (i : Instr) (rest : List Byte)
  | rejected (r : DecodeReject)
deriving DecidableEq, Repr

/-- Read one instruction off the front of a byte list; every instruction is one byte (R6, R53). -/
def decodeBytes (cmd : Nibble) : List Byte → DecodeResult
  | [] => .rejected .noByte
  | b :: rest => .instr (decode cmd b) rest

/-- The byte of an instruction (R71, R73, R74, R75 and the table's `encoding` column). -/
def encode : Instr → Byte
  | .vsNoteoff n => 0x8#4 ++ n
  | .vsNoteon n => 0x9#4 ++ n
  | .vsPolyat n => 0xA#4 ++ n
  | .vsCc n => 0xB#4 ++ n
  | .vsProgchg n => 0xC#4 ++ n
  | .vsChanpress n => 0xD#4 ++ n
  | .vsPitchbend n => 0xE#4 ++ n
  | .sysCommon x => 0b11110#5 ++ x
  | .sysRealtime x => 0b11111#5 ++ x
  | .dataIdle v | .dataNoteoff v | .dataNoteon v | .dataProgchg v => 0#1 ++ v
  | .dataChanpress v | .dataPolyat v | .dataCc v | .dataPitchbend v => 0#1 ++ v

/-- One row of spec/opcode_table.json: `match`, `mask` and the state condition. -/
structure OpcodeRow where
  mnemonic : String
  pattern : Byte
  mask : Byte
  cond : Option Nibble
deriving DecidableEq, Repr

/-- Spec/opcode_table.json, row by row in its own order. -/
def opcodeTable : List OpcodeRow :=
  [⟨"VS_NOTEOFF", 0x80, 0xF0, none⟩, ⟨"VS_NOTEON", 0x90, 0xF0, none⟩, ⟨"VS_POLYAT", 0xA0, 0xF0, none⟩,
   ⟨"VS_CC", 0xB0, 0xF0, none⟩, ⟨"VS_PROGCHG", 0xC0, 0xF0, none⟩, ⟨"VS_CHANPRESS", 0xD0, 0xF0, none⟩,
   ⟨"VS_PITCHBEND", 0xE0, 0xF0, none⟩, ⟨"SYS_COMMON", 0xF0, 0xF8, none⟩, ⟨"SYS_REALTIME", 0xF8, 0xF8, none⟩] ++
  [⟨"DATA_IDLE", 0x00, 0x80, some 0x0⟩, ⟨"DATA_NOTEOFF", 0x00, 0x80, some 0x8⟩, ⟨"DATA_NOTEON", 0x00, 0x80, some 0x9⟩,
   ⟨"DATA_PROGCHG", 0x00, 0x80, some 0xC⟩, ⟨"DATA_CHANPRESS", 0x00, 0x80, some 0xD⟩, ⟨"DATA_POLYAT", 0x00, 0x80, some 0xA⟩,
   ⟨"DATA_CC", 0x00, 0x80, some 0xB⟩, ⟨"DATA_PITCHBEND", 0x00, 0x80, some 0xE⟩]

/-- The index of an instruction's row in `opcodeTable`. -/
def Instr.rowIndex : Instr → Fin 17
  | .vsNoteoff _ => 0
  | .vsNoteon _ => 1
  | .vsPolyat _ => 2
  | .vsCc _ => 3
  | .vsProgchg _ => 4
  | .vsChanpress _ => 5
  | .vsPitchbend _ => 6
  | .sysCommon _ => 7
  | .sysRealtime _ => 8
  | .dataIdle _ => 9
  | .dataNoteoff _ => 10
  | .dataNoteon _ => 11
  | .dataProgchg _ => 12
  | .dataChanpress _ => 13
  | .dataPolyat _ => 14
  | .dataCc _ => 15
  | .dataPitchbend _ => 16

/-- Does a row cover this byte under this `CMD`? -/
def OpcodeRow.covers (r : OpcodeRow) (cmd : Nibble) (b : Byte) : Bool :=
  (b &&& r.mask == r.pattern) && (match r.cond with | none => true | some k => cmd == k)

/-- The bytes of a table word of `nbits` bits: the first byte is bits 7..0, the next bits 15..8, and so on. -/
def wordBytes : Nat → Nat → List Byte
  | 0, _ => []
  | k + 1, w => BitVec.ofNat 8 w :: wordBytes k (w / 256)

/-- The instruction the decoder reads from a table word. The word is read under `CMD = 0`, the running
status right after reset (R41): the table's eight data rows are one encoding, and a word alone does not say
which of them is meant (log 13). A word that is not one byte long is no instruction (R53). -/
def decodeTableWord (nbits w : Nat) : Option Instr :=
  match decodeBytes 0x0 (wordBytes (nbits / 8) w) with
  | .instr i [] => some i
  | .instr _ (_ :: _) => none
  | .rejected _ => none

end Sys2Proof
end

