-- ==== Sys2Proof/Config.lean ====
section
/-! DEFINITION. The instance parameters of spec 00_scope.md rule R5, fixed for the lifetime of a decoder
instance. They stand in `State.cfg`, which no step writes, so a statement about every state
is a statement about every choice of parameters. -/

namespace Sys2Proof

/-- `P_EMPTY_MODE` (R5, R27): how "data1 empty" is represented. -/
inductive EmptyMode where
  | faithful
  | explicit
deriving DecidableEq, Repr

/-- The instance parameters (R5). -/
structure Config where
  /-- `P_EMPTY_MODE`. -/
  emptyMode : EmptyMode
  /-- `P_PORT_W`, a natural number at least 1. -/
  portW : Nat
  /-- `PORT_ID`: `none` is the source's "no identifier" sentinel. -/
  portId : Option Nat
  /-- `CHAN_RESET`: the value a reset loads into `CHAN` (R41, R230: any 4-bit value). -/
  chanReset : Nibble
deriving DecidableEq, Repr

/-- A legal choice of parameters (R5): the port is at least one bit wide and the identifier fits it. -/
def Config.wf (c : Config) : Bool :=
  decide (1 ≤ c.portW) && c.portId.all fun p => decide (p < 2 ^ c.portW)

/-- The parameters of `State.reset`. `FAITHFUL` is the spec's default (R5).
DESIGN CHOICE (log 2, log 3): the spec leaves the other three open. -/
def Config.default : Config where
  emptyMode := .faithful
  portW := 1
  portId := none
  chanReset := 0

end Sys2Proof
end

