-- ==== Sys2Proof/Machine/State.lean ====
section
/-! DEFINITION. The machine's state as plain data: the registers of spec 10_state.md rule R20, the registered
outputs of 30_encoding.md rule R82, the instance parameters of 00_scope.md rule R5 and the input edges still to
come; the reasons a step could stop; and the state after reset (10_state.md rule R41). -/

namespace Sys2Proof.Machine

/-- The three event kinds (R79). -/
inductive EventKind where
  | noteOn
  | noteOff
  | thru
deriving DecidableEq, Repr

/-- The event record of R79. `data2 = none` is `ABSENT`; `portId = none` means the identifier is omitted (R155). -/
structure Event where
  kind : EventKind
  /-- An integer 1–16. -/
  channel : Nat
  command : Byte
  data1 : Data7
  data2 : Option Data7
  portId : Option Nat
deriving DecidableEq, Repr

/-- The input pins at one rising edge of `clk` (R81). -/
structure Edge where
  rst : Bool
  inValid : Bool
  inByte : Byte
deriving DecidableEq, Repr

/-- The state of one decoder instance. -/
structure State where
  /-- The instance parameters; no step writes them (R5, R38). -/
  cfg : Config
  /-- `CMD` (R21). -/
  cmd : Nibble
  /-- `CHAN` (R23): channel − 1. -/
  chan : Nibble
  /-- `D1` (R25). -/
  d1 : Data7
  /-- `D2` (R26). -/
  d2 : Data7
  /-- `D1V` (R27): a register of `EXPLICIT` mode; inert in `FAITHFUL` mode (log 4). -/
  d1v : BitVec 1
  /-- The event of the last clock edge's step, if any: a registered output (R82, R150). -/
  event : Option Event
  /-- The completion output of the last clock edge's step: a registered output (R82, R158). -/
  done : Bool
  /-- The clock edges the host has still to present, next first (R36, R81; log 6). -/
  input : List Edge
deriving DecidableEq, Repr

/-- The decoder "raises no exception and has no error state" (R200), so there is no fault:
no constructor, and nobody raises one. Safe: no run of the hardware stops. -/
inductive Fault where
deriving DecidableEq, Repr

/-- Why an instruction has no meaning. -/
inductive Refusal where
  /-- Raised by an arm of `exec` whose instruction has no meaning yet; no arm does. Safe: it would stop the model
  where the hardware goes on. -/
  | notModelled (mnemonic : String)
deriving DecidableEq, Repr

/-- The state of an instance with parameters `c` right after it is created (R41, R230, R88): Idle, data empty,
no event, `done` 0, `CHAN` at `CHAN_RESET`. -/
def State.resetOf (c : Config) : State where
  cfg := c
  cmd := 0
  chan := c.chanReset
  d1 := 0
  d2 := 0
  d1v := 0
  event := none
  done := false
  input := []

/-- The machine right after reset, with the default parameters (log 2, log 3). -/
def State.reset : State := State.resetOf Config.default

end Sys2Proof.Machine
end

