-- ==== Sys2Proof/Machine/Flags.lean ====
section
/-! DEFINITION. The decoder holds no flags (spec 10_state.md rule R37); these are the conditions read off its
registers: `d1_empty` (R27), the command class (R22) and the Idle/Running view (R29). -/

namespace Sys2Proof.Machine

/-- `d1_empty(S)` (R27): `D1 = 0` in `FAITHFUL` mode, `D1V = 0` in `EXPLICIT` mode. -/
def State.d1Empty (s : State) : Bool :=
  match s.cfg.emptyMode with
  | .faithful => s.d1 == 0
  | .explicit => s.d1v == 0

/-- The command classes of R22. -/
inductive CmdClass where
  | none
  | noteOff
  | noteOn
  | programChange
  | channelPressure
  | other
deriving DecidableEq, Repr

/-- The class read off `CMD` (R22); "any other command value" is the class Other. -/
def cmdClass (cmd : Nibble) : CmdClass :=
  if cmd = 0x0 then .none
  else if cmd = 0x8 then .noteOff
  else if cmd = 0x9 then .noteOn
  else if cmd = 0xC then .programChange
  else if cmd = 0xD then .channelPressure
  else .other

/-- Data bytes per message of a class (R22, R72, R77). -/
def CmdClass.dataBytes : CmdClass → Nat
  | .none => 0
  | .noteOff | .noteOn | .other => 2
  | .programChange | .channelPressure => 1

/-- Idle: no running status (R29). -/
def State.idle (s : State) : Bool := s.cmd == 0

/-- Running: a running status is active (R29). -/
def State.running (s : State) : Bool := !s.idle

end Sys2Proof.Machine
end

