-- ==== Sys2Proof/Machine/Operands.lean ====
section
/-! DEFINITION. The operand arithmetic of spec 30_encoding.md rule R76 and the event record an `emit` builds from
the registers (42_event_output.md rule R150). -/

namespace Sys2Proof.Machine

/-- `CMD << 4` as an 8-bit command value (R21, R76). -/
def commandOf (k : Nibble) : Byte := k.setWidth 8 <<< 4

/-- `CHAN + 1`, an integer 1–16 (R23, R76). -/
def channelOf (n : Nibble) : Nat := n.toNat + 1

/-- The event an `emit` of this kind makes of the registers at that point: channel from `CHAN`, `data1` from
`D1`, the port identifier from `PORT_ID` (R79, R150, R155). -/
def State.eventOf (s : State) (kind : EventKind) (command : Byte) (data2 : Option Data7) : Event where
  kind := kind
  channel := channelOf s.chan
  command := command
  data1 := s.d1
  data2 := data2
  portId := s.cfg.portId

end Sys2Proof.Machine
end

