-- ==== Sys2Proof/Machine/Ops.lean ====
section
/-! DEFINITION. The named operations the meanings are written from: the register writes of the spec's
pseudocode (00_scope.md rule R8), `emit` and `done`, the operations several rows share (VOICE_STATUS R101, the
first-byte store, the second-byte completion, ONE_BYTE R124, TWO_BYTE R127), and RESET (R230). The decoder has no
exceptions (60_exceptions.md rules R200, R205), so there is no entry or return operation. -/

namespace Sys2Proof.Machine

/-- The outputs at the start of a step: no event, `done` 0 (R8: `done` is 0 unless set). It is also what a
clock edge without a step leaves (R81, R83, R86). -/
def State.clearOutputs (s : State) : State := { s with event := none, done := false }

/-- `CMD <- k`. -/
def State.setCmd (s : State) (k : Nibble) : State := { s with cmd := k }

/-- `CHAN <- n`. -/
def State.setChan (s : State) (n : Nibble) : State := { s with chan := n }

/-- `D1 <- v`. -/
def State.setD1 (s : State) (v : Data7) : State := { s with d1 := v }

/-- `D2 <- v`. -/
def State.setD2 (s : State) (v : Data7) : State := { s with d2 := v }

/-- `if P_EMPTY_MODE == EXPLICIT then D1V <- f` (R28): in `FAITHFUL` mode no rule writes `D1V`. -/
def State.setD1V (s : State) (f : BitVec 1) : State :=
  match s.cfg.emptyMode with
  | .faithful => s
  | .explicit => { s with d1v := f }

/-- `emit E` (R8, R150). -/
def State.emit (s : State) (e : Event) : State := { s with event := some e }

/-- `done <- 1` (R8). -/
def State.setDone (s : State) : State := { s with done := true }

/-- `D1 <- 0; D2 <- 0; if P_EMPTY_MODE == EXPLICIT then D1V <- 0` (R101, R122, R123, R127, R230). -/
def State.clearData (s : State) : State := ((s.setD1 0).setD2 0).setD1V 0

/-- VOICE_STATUS (R101) for command nibble `k` and channel nibble `n`. -/
def State.voiceStatus (s : State) (k n : Nibble) : State :=
  ((s.clearOutputs.setCmd k).setChan n).clearData

/-- The first-data-byte branch of R122, R123 and R127. -/
def State.storeFirst (s : State) (v : Data7) : State := (s.clearOutputs.setD1 v).setD1V 1

/-- The second-data-byte branch shared by R122, R123 and R127: `D2 <- v`, emit, clear the data. -/
def State.completeSecond (s : State) (v : Data7) (kind : EventKind) (command : Byte) : State :=
  let t := s.clearOutputs.setD2 v
  (t.emit (t.eventOf kind command (some t.d2))).clearData

/-- ONE_BYTE (R124). `D2` and `D1V` are not written and `d1_empty` is not consulted. -/
def State.oneByte (s : State) (v : Data7) : State :=
  let t := s.clearOutputs.setD1 v
  (t.emit (t.eventOf .thru (commandOf t.cmd) none)).setD1 0

/-- TWO_BYTE (R127). -/
def State.twoByte (s : State) (v : Data7) : State :=
  if s.d1Empty then s.storeFirst v
  else (s.completeSecond v .thru (commandOf s.cmd)).setDone

/-- RESET (R230): every register to its reset value, no event, `done` 0; parameters and the edges still to come
are not registers of the decoder and stay. -/
def State.applyReset (s : State) : State :=
  ((s.clearOutputs.setCmd 0).setChan s.cfg.chanReset).clearData

end Sys2Proof.Machine
end

