-- ==== Sys2Proof/Machine/DataBytes.lean ====
section
/-! DEFINITION. The meanings of the eight data rows (spec 41_data_bytes.md rules R121–R130). A meaning runs its
rule's pseudocode as it stands; that the rule fits `CMD` is the decoder's business (R120, log 12). -/

namespace Sys2Proof.Machine

/-- DATA_IDLE (R121): the byte is discarded. -/
def execDataIdle (_v : Data7) (s : State) : Host.Outcome State Fault Refusal := .next s.clearOutputs

/-- DATA_NOTEOFF (R122). -/
def execDataNoteoff (v : Data7) (s : State) : Host.Outcome State Fault Refusal :=
  .next (if s.d1Empty then s.storeFirst v else s.completeSecond v .noteOff 0x80)

/-- DATA_NOTEON (R123): a second byte of 0 makes the event a NoteOff that keeps command 0x90. -/
def execDataNoteon (v : Data7) (s : State) : Host.Outcome State Fault Refusal :=
  .next (if s.d1Empty then s.storeFirst v
    else if v = 0 then s.completeSecond v .noteOff 0x90
    else s.completeSecond v .noteOn 0x90)

/-- DATA_PROGCHG (R125). -/
def execDataProgchg (v : Data7) (s : State) : Host.Outcome State Fault Refusal := .next (s.oneByte v)

/-- DATA_CHANPRESS (R126). -/
def execDataChanpress (v : Data7) (s : State) : Host.Outcome State Fault Refusal := .next (s.oneByte v)

/-- DATA_POLYAT (R128). -/
def execDataPolyat (v : Data7) (s : State) : Host.Outcome State Fault Refusal := .next (s.twoByte v)

/-- DATA_CC (R129). -/
def execDataCc (v : Data7) (s : State) : Host.Outcome State Fault Refusal := .next (s.twoByte v)

/-- DATA_PITCHBEND (R130). -/
def execDataPitchbend (v : Data7) (s : State) : Host.Outcome State Fault Refusal := .next (s.twoByte v)

end Sys2Proof.Machine
end

