-- ==== Sys2Proof/Machine/SystemBytes.lean ====
section
/-! DEFINITION. The meanings of the two system rows (spec 40_status_bytes.md rules R109, R110). The low three
bits are not decoded (30_encoding.md rules R73, R74). -/

namespace Sys2Proof.Machine

/-- SYS_COMMON (R109): `CMD <- 0`, and nothing else. -/
def execSysCommon (_x : Bits3) (s : State) : Host.Outcome State Fault Refusal := .next (s.clearOutputs.setCmd 0)

/-- SYS_REALTIME (R110): no register is written. -/
def execSysRealtime (_x : Bits3) (s : State) : Host.Outcome State Fault Refusal := .next s.clearOutputs

end Sys2Proof.Machine
end

