-- ==== Sys2Proof/Machine/VoiceStatus.lean ====
section
/-! DEFINITION. The meanings of the seven voice status rows, each VOICE_STATUS of spec 40_status_bytes.md rule R101
with its own command nibble (rules R102–R108). -/

namespace Sys2Proof.Machine

/-- VS_NOTEOFF (R102). -/
def execVsNoteoff (n : Nibble) (s : State) : Host.Outcome State Fault Refusal := .next (s.voiceStatus 0x8 n)

/-- VS_NOTEON (R103). -/
def execVsNoteon (n : Nibble) (s : State) : Host.Outcome State Fault Refusal := .next (s.voiceStatus 0x9 n)

/-- VS_POLYAT (R104). -/
def execVsPolyat (n : Nibble) (s : State) : Host.Outcome State Fault Refusal := .next (s.voiceStatus 0xA n)

/-- VS_CC (R105). -/
def execVsCc (n : Nibble) (s : State) : Host.Outcome State Fault Refusal := .next (s.voiceStatus 0xB n)

/-- VS_PROGCHG (R106). -/
def execVsProgchg (n : Nibble) (s : State) : Host.Outcome State Fault Refusal := .next (s.voiceStatus 0xC n)

/-- VS_CHANPRESS (R107). -/
def execVsChanpress (n : Nibble) (s : State) : Host.Outcome State Fault Refusal := .next (s.voiceStatus 0xD n)

/-- VS_PITCHBEND (R108). -/
def execVsPitchbend (n : Nibble) (s : State) : Host.Outcome State Fault Refusal := .next (s.voiceStatus 0xE n)

end Sys2Proof.Machine
end

