-- ==== Sys2Proof/Machine/Dispatch.lean ====
section
/-! DEFINITION. One arm per constructor of Instr: the meaning of each row of spec/opcode_table.json. -/

namespace Sys2Proof.Machine

def exec (i : Instr) (s : State) : Host.Outcome State Fault Refusal :=
  match i with
  | .vsNoteoff n => Sys2Proof.Machine.execVsNoteoff n s
  | .vsNoteon n => Sys2Proof.Machine.execVsNoteon n s
  | .vsPolyat n => Sys2Proof.Machine.execVsPolyat n s
  | .vsCc n => Sys2Proof.Machine.execVsCc n s
  | .vsProgchg n => Sys2Proof.Machine.execVsProgchg n s
  | .vsChanpress n => Sys2Proof.Machine.execVsChanpress n s
  | .vsPitchbend n => Sys2Proof.Machine.execVsPitchbend n s
  | .sysCommon x => Sys2Proof.Machine.execSysCommon x s
  | .sysRealtime x => Sys2Proof.Machine.execSysRealtime x s
  | .dataIdle v => Sys2Proof.Machine.execDataIdle v s
  | .dataNoteoff v => Sys2Proof.Machine.execDataNoteoff v s
  | .dataNoteon v => Sys2Proof.Machine.execDataNoteon v s
  | .dataProgchg v => Sys2Proof.Machine.execDataProgchg v s
  | .dataChanpress v => Sys2Proof.Machine.execDataChanpress v s
  | .dataPolyat v => Sys2Proof.Machine.execDataPolyat v s
  | .dataCc v => Sys2Proof.Machine.execDataCc v s
  | .dataPitchbend v => Sys2Proof.Machine.execDataPitchbend v s

end Sys2Proof.Machine
end

