-- ==== Sys2Proof/Machine/Clock.lean ====
section
/-! DEFINITION. The physical step (spec 30_encoding.md rule R81): what one rising clock edge does, how the next edge
is taken off the input, and how bytes are put on it. -/

namespace Sys2Proof.Machine

/-- An edge with `rst = 0` and `in_valid = 0`: no step (R81). -/
def Edge.quiet : Edge := ⟨false, false, 0⟩

/-- An edge that presents byte `b` (R81). -/
def Edge.byte (b : Byte) : Edge := ⟨false, true, b⟩

/-- The edge that comes next. Once the host presents nothing more, edges are quiet (R207, R211; log 6). -/
def State.nextEdge (s : State) : Edge := s.input.headD Edge.quiet

/-- The input moves on by one edge (R36). -/
def State.advance (s : State) : State := { s with input := s.input.tail }

/-- FEED, the spec's transaction-level step (R6, R100): consume byte `b` under the rule its class and `CMD` select. -/
def feed (b : Byte) (s : State) : Host.Outcome State Fault Refusal := exec (decode s.cmd b) s

/-- One rising edge of `clk` (R81): reset wins over a byte (R232), a byte is fed, otherwise registers hold and the
outputs go to "no event" (R83, R86). -/
def clockEdge (e : Edge) (s : State) : Host.Outcome State Fault Refusal :=
  if e.rst then .next s.applyReset
  else if e.inValid then feed e.inByte s
  else .next s.clearOutputs

/-- One clock edge of the machine: take the next edge off the input and perform it. -/
def clockStep (s : State) : Host.Outcome State Fault Refusal := clockEdge s.nextEdge s.advance

/-- Put bytes at the front of the input, one edge each, so that the next steps consume them. -/
def State.present (s : State) (bs : List Byte) : State := { s with input := bs.map Edge.byte ++ s.input }

end Sys2Proof.Machine
end

