-- ==== Sys2Proof/Machine/Step.lean ====
section
/-! DEFINITION. The machine's step, one rising clock edge (spec 30_encoding.md rule R81), and the placing of an
instruction where the next step consumes it. The decoder has no program counter (10_state.md rule R36): the next
instruction is the next byte of the input. -/

namespace Sys2Proof.Machine

/-- One step of the machine. -/
def step : State → Host.Outcome State Fault Refusal := clockStep

/-- `s` with the table word's bytes presented next, so that the next step consumes the instruction (log 6). -/
def State.withFetchWord (s : State) (nbits w : Nat) : State := s.present (wordBytes (nbits / 8) w)

end Sys2Proof.Machine
end

