-- ==== Sys2Proof/Machine/Bank.lean ====
section
/-! DEFINITION. Several decoder instances (spec 60_exceptions.md rule R209): a product of independent instances,
each with its own state and parameters. Which instance's clock edge comes next is the caller's choice (log 11). -/

namespace Sys2Proof.Machine

/-- One state per instance. -/
abbrev Bank := List State

/-- One clock edge of instance `k`; a number that names no instance does nothing. -/
def Bank.stepAt (k : Nat) (b : Bank) : Host.Outcome Bank Fault Refusal :=
  match b[k]? with
  | none => .next b
  | some s =>
    match step s with
    | .next t => .next (b.set k t)
    | .fault f => .fault f
    | .refused r => .refused r

end Sys2Proof.Machine
end

