-- ==== Sys2Proof/Machine/Pins.lean ====
section
/-! DEFINITION. The output pins, computed from the registered outputs and the registers: the event pins of spec
30_encoding.md rules R80–R88 and the read-only observation port of 10_state.md rule R40. -/

namespace Sys2Proof.Machine

/-- `ev_kind[1:0]` of an event (R80); `00` is "no event". -/
def EventKind.code : EventKind → BitVec 2
  | .noteOn => 0b01
  | .noteOff => 0b10
  | .thru => 0b11

/-- The output pins of R82. `evPort` is `P_PORT_W` bits wide (log 9). -/
structure EventPins where
  evValid : Bool
  evKind : BitVec 2
  evChan : Nibble
  evCmd : Byte
  evD1 : Data7
  evD2 : Data7
  evD2Valid : Bool
  evPort : Nat
  evPortValid : Bool
  done : Bool
deriving DecidableEq, Repr

/-- The pins in the cycle after an edge: R83–R85 for an event, all 0 but `done` without one (R87). -/
def State.pins (s : State) : EventPins :=
  match s.event with
  | none => ⟨false, 0, 0, 0, 0, 0, false, 0, false, s.done⟩
  | some e =>
    { evValid := true
      evKind := e.kind.code
      evChan := BitVec.ofNat 4 (e.channel - 1)
      evCmd := e.command
      evD1 := e.data1
      evD2 := e.data2.getD 0
      evD2Valid := e.data2.isSome
      evPort := e.portId.getD 0
      evPortValid := e.portId.isSome
      done := s.done }

/-- The observation port of R40; `st_d1v` exists in `EXPLICIT` mode only. -/
structure ObservationPort where
  stCmd : Nibble
  stChan : Nibble
  stD1 : Data7
  stD2 : Data7
  stD1v : Option (BitVec 1)
deriving DecidableEq, Repr

/-- What the observation port shows (R40). -/
def State.observation (s : State) : ObservationPort where
  stCmd := s.cmd
  stChan := s.chan
  stD1 := s.d1
  stD2 := s.d2
  stD1v := match s.cfg.emptyMode with
    | .faithful => none
    | .explicit => some s.d1v

end Sys2Proof.Machine
end

