-- ==== Sys2Proof/Machine/Run.lean ====
section
/-! DEFINITION. Runs (spec 70_reset_and_hazards.md rule R242): a reset followed by a finite list of bytes, observed as
the list of (event, done) pairs and the final state; and the same observation of a run of clock edges. -/

namespace Sys2Proof.Machine

/-- What a step shows: its event, if any, and `done` (R6, R242). -/
abbrev Obs := Option Event × Bool

/-- The outputs standing after a step. -/
def State.obs (s : State) : Obs := (s.event, s.done)

/-- Feed bytes in arrival order (R58): the observations in order and the final state. -/
def runBytes : List Byte → State → Host.Outcome (List Obs × State) Fault Refusal
  | [], s => .next ([], s)
  | b :: bs, s =>
    match feed b s with
    | .next t =>
      match runBytes bs t with
      | .next (os, u) => .next (t.obs :: os, u)
      | .fault f => .fault f
      | .refused r => .refused r
    | .fault f => .fault f
    | .refused r => .refused r

/-- A run (R242): an instance created with parameters `c`, then the bytes. -/
def run (c : Config) (bs : List Byte) : Host.Outcome (List Obs × State) Fault Refusal := runBytes bs (State.resetOf c)

/-- `k` clock edges of the machine, with the outputs after each. -/
def runSteps : Nat → State → Host.Outcome (List Obs × State) Fault Refusal
  | 0, s => .next ([], s)
  | k + 1, s =>
    match step s with
    | .next t =>
      match runSteps k t with
      | .next (os, u) => .next (t.obs :: os, u)
      | .fault f => .fault f
      | .refused r => .refused r
    | .fault f => .fault f
    | .refused r => .refused r

/-- The sequence of events of a run (R161). -/
def eventsOf (os : List Obs) : List Event := os.filterMap Prod.fst

/-- How many steps of a run signalled completion (R158). -/
def completions (os : List Obs) : Nat := (os.filter Prod.snd).length

/-- The bytes a list of edges presents, resets aside (R81). -/
def presentedBytes (es : List Edge) : List Byte := (es.filter Edge.inValid).map Edge.inByte

end Sys2Proof.Machine
end

