-- ==== Sys2Proof/Machine/Sink.lean ====
section
/-! DEFINITION. The Event Sink as the decoder's external interface (spec 42_event_output.md rules R155–R157): three
handler slots and what an event makes the sink do. The sink is the host's and no part of `State`: it cannot
influence the decoder (R159). What a handler does and the trace's text are not modelled (log 10). -/

namespace Sys2Proof.Machine

/-- The three slots, one per event kind; a handler is an opaque number (R156). -/
structure Sink where
  noteOn : Option Nat
  noteOff : Option Nat
  thru : Option Nat
deriving DecidableEq, Repr

/-- The slot of an event kind (R156). -/
def Sink.slot (k : Sink) : EventKind → Option Nat
  | .noteOn => k.noteOn
  | .noteOff => k.noteOff
  | .thru => k.thru

/-- Register a handler in one slot, or empty it; the slots are "independently redirectable" (R156). -/
def Sink.redirect (k : Sink) (kind : EventKind) (h : Option Nat) : Sink :=
  match kind with
  | .noteOn => { k with noteOn := h }
  | .noteOff => { k with noteOff := h }
  | .thru => { k with thru := h }

/-- The arguments a handler is invoked with (R156); `portId = none` is "omitted", `data2 = none` the absent marker. -/
structure HandlerArgs where
  channel : Nat
  command : Byte
  data1 : Data7
  data2 : Option Data7
  portId : Option Nat
deriving DecidableEq, Repr

/-- What the sink does with an event: invoke the slot's handler, or print the default trace line, which
identifies the kind, the channel and the data, the second datum omitted for a one-byte message (R157). -/
inductive Delivery where
  | invoke (handler : Nat) (args : HandlerArgs)
  | trace (kind : EventKind) (channel : Nat) (data1 : Data7) (data2 : Option Data7)
deriving DecidableEq, Repr

/-- Deliver one event (R156, R157). -/
def Sink.deliver (k : Sink) (e : Event) : Delivery :=
  match k.slot e.kind with
  | some h => .invoke h ⟨e.channel, e.command, e.data1, e.data2, e.portId⟩
  | none => .trace e.kind e.channel e.data1 e.data2

end Sys2Proof.Machine
end

