-- ==== Sys2Proof/Machine/Stream.lean ====
section
/-! DEFINITION. The stream shorthands of spec 30_encoding.md rule R89: notation for byte lists. -/

namespace Sys2Proof.Machine

/-- The shorthands of R89; a channel `ch` is an integer 1–16. -/
inductive Shorthand where
  | noteOff (ch : Nat) (n v : Data7)
  | noteOn (ch : Nat) (n v : Data7)
  | polyAt (ch : Nat) (n p : Data7)
  | cc (ch : Nat) (c v : Data7)
  | prog (ch : Nat) (p : Data7)
  | chPress (ch : Nat) (p : Data7)
  | bend (ch : Nat) (d1 d2 : Data7)
  | rs2 (d1 d2 : Data7)
  | rs1 (d1 : Data7)
  | sys (x : Byte)
  | rt (x : Byte)
  | data (v : Data7)
deriving DecidableEq, Repr

/-- A data byte (R75): `0vvv vvvv`. -/
def dataByte (v : Data7) : Byte := v.setWidth 8

/-- The status byte of a command on channel `ch`: base + (ch − 1). -/
def statusByte (base : Byte) (ch : Nat) : Byte := base + BitVec.ofNat 8 (ch - 1)

/-- The operand ranges of R89 (log 17). -/
def Shorthand.wf : Shorthand → Bool
  | .noteOff ch _ _ | .noteOn ch _ _ | .polyAt ch _ _ | .cc ch _ _ => decide (1 ≤ ch ∧ ch ≤ 16)
  | .prog ch _ | .chPress ch _ | .bend ch _ _ => decide (1 ≤ ch ∧ ch ≤ 16)
  | .sys x => decide (0xF0 ≤ x ∧ x ≤ 0xF7)
  | .rt x => decide (0xF8 ≤ x)
  | .rs2 _ _ | .rs1 _ | .data _ => true

/-- The expansion column of R89. -/
def Shorthand.bytes : Shorthand → List Byte
  | .noteOff ch n v => [statusByte 0x80 ch, dataByte n, dataByte v]
  | .noteOn ch n v => [statusByte 0x90 ch, dataByte n, dataByte v]
  | .polyAt ch n p => [statusByte 0xA0 ch, dataByte n, dataByte p]
  | .cc ch c v => [statusByte 0xB0 ch, dataByte c, dataByte v]
  | .prog ch p => [statusByte 0xC0 ch, dataByte p]
  | .chPress ch p => [statusByte 0xD0 ch, dataByte p]
  | .bend ch d1 d2 => [statusByte 0xE0 ch, dataByte d1, dataByte d2]
  | .rs2 d1 d2 => [dataByte d1, dataByte d2]
  | .rs1 d1 => [dataByte d1]
  | .sys x => [x]
  | .rt x => [x]
  | .data v => [dataByte v]

/-- The bytes of a list of shorthands, in arrival order (R9). -/
def expand (ps : List Shorthand) : List Byte := ps.flatMap Shorthand.bytes

end Sys2Proof.Machine
end

