-- ==== Sys2Proof/Safety.lean ====
section
/-! DEFINITION. The terms the statements use: the invariant that holds at every step boundary (spec 10_state.md
rules R30–R33), and the spec's conditions and results in the registers' own words. -/

namespace Sys2Proof.Machine

/-- What holds at every step boundary. `d2Zero` is R31, `cmdLegal` R33, `oneByteData` R32 (that `D1` and `D2` are
below 0x80, R30, is their width). `unmarked` is the model's: `D1V = 0` means `D1` holds no byte (from R27, R28), and
`inert` its choice for `FAITHFUL` mode (log 4). `params` is R5. -/
structure State.Inv (s : State) : Prop where
  d2Zero : s.d2 = 0
  cmdLegal : legalCmd s.cmd = true
  oneByteData : s.cmd = 0xC ∨ s.cmd = 0xD → s.d1 = 0 ∧ (s.cfg.emptyMode = .explicit → s.d1v = 0)
  unmarked : s.cfg.emptyMode = .explicit → s.d1v = 0 → s.d1 = 0
  inert : s.cfg.emptyMode = .faithful → s.d1v = 0
  params : s.cfg.wf = true

/-- "data1 empty" in the words of R27. -/
def State.DataEmpty (s : State) : Prop :=
  (s.cfg.emptyMode = .faithful ∧ s.d1 = 0) ∨ (s.cfg.emptyMode = .explicit ∧ s.d1v = 0)

/-- `D1V` after a rule that writes `f` to it in `EXPLICIT` mode only (R28). -/
def State.d1vWritten (s : State) (f : BitVec 1) : BitVec 1 := if s.cfg.emptyMode = .explicit then f else s.d1v

/-- Two states agree on every register and parameter of the decoder (outputs and input aside). -/
def State.SameRegs (s t : State) : Prop :=
  s.cfg = t.cfg ∧ s.cmd = t.cmd ∧ s.chan = t.chan ∧ s.d1 = t.d1 ∧ s.d2 = t.d2 ∧ s.d1v = t.d1v

/-- A command whose messages carry two data bytes (R22, R72). -/
def twoByteCmd (cmd : Nibble) : Bool := cmd == 0x8 || cmd == 0x9 || cmd == 0xA || cmd == 0xB || cmd == 0xE

/-- A voice status byte (R70). -/
def IsVoice (b : Byte) : Prop := 0x80 ≤ b ∧ b ≤ 0xEF

/-- A System Common byte (R70). -/
def IsSysCommon (b : Byte) : Prop := 0xF0 ≤ b ∧ b ≤ 0xF7

/-- A System Real-Time byte (R70). -/
def IsRealTime (b : Byte) : Prop := 0xF8 ≤ b

/-- A data byte (R70). -/
def IsData (b : Byte) : Prop := b ≤ 0x7F

/-- The seven voice status rows: the row, its command nibble, and the data row that later data bytes run (R102–R108). -/
def voiceRows : List ((Nibble → Instr) × Nibble × (Data7 → Instr)) :=
  [(.vsNoteoff, 0x8, .dataNoteoff), (.vsNoteon, 0x9, .dataNoteon), (.vsPolyat, 0xA, .dataPolyat), (.vsCc, 0xB, .dataCc),
   (.vsProgchg, 0xC, .dataProgchg), (.vsChanpress, 0xD, .dataChanpress), (.vsPitchbend, 0xE, .dataPitchbend)]

/-- An outcome with a next state that satisfies `P`. -/
def NextSuch (o : Host.Outcome State Fault Refusal) (P : State → Prop) : Prop := ∃ t, o = .next t ∧ P t

/-- The completed event of a two-byte message under `CMD`, by R122, R123 and R127: `a` the first data byte, `v` the second. -/
def State.pairEvent (s : State) (a v : Data7) : Event where
  kind := if s.cmd = 0x8 then .noteOff else if s.cmd = 0x9 then (if v = 0 then .noteOff else .noteOn) else .thru
  channel := s.chan.toNat + 1
  command := s.cmd ++ 0#4
  data1 := a
  data2 := some v
  portId := s.cfg.portId

/-- The Thru event of a one-byte message (R124, R153). -/
def State.singleEvent (s : State) (v : Data7) : Event where
  kind := .thru
  channel := s.chan.toNat + 1
  command := s.cmd ++ 0#4
  data1 := v
  data2 := none
  portId := s.cfg.portId

/-- The values an event may take in a mode: the table of R160. -/
def Event.Reachable (m : EmptyMode) (e : Event) : Prop :=
  (1 ≤ e.channel ∧ e.channel ≤ 16) ∧
  match e.kind, e.data2 with
  | .noteOn, some v => e.command = 0x90 ∧ 1 ≤ v ∧ (m = .faithful → 1 ≤ e.data1)
  | .noteOff, some v => (e.command = 0x80 ∨ (e.command = 0x90 ∧ v = 0)) ∧ (m = .faithful → 1 ≤ e.data1)
  | .thru, none => e.command = 0xC0 ∨ e.command = 0xD0
  | .thru, some _ => (e.command = 0xA0 ∨ e.command = 0xB0 ∨ e.command = 0xE0) ∧ (m = .faithful → 1 ≤ e.data1)
  | .noteOn, none => False
  | .noteOff, none => False

end Sys2Proof.Machine
end

