-- ==== Sys2Proof/Certificates/Slice0/Obligations.lean ====
section
/-! DEFINITION. The statements for the provers, each with the rules of the spec it formalises. -/

open Sys2Proof Sys2Proof.Machine

/-! ## Encoding -/

/-- R70, R71, R73–R75 and the opcode table: no bit of an encoding is dropped. That the system rows keep their three
undecoded bits as an operand is the model's choice (log 16). -/
def Obligations.DecodeEncodeRoundTrip : Prop :=
  ∀ (cmd : Nibble) (i : Instr), i.wf cmd = true → decode cmd (encode i) = i

/-- The converse direction: what a byte decodes to is an instruction with that very byte, under every `CMD`; and under a
`CMD` that R33 allows it is the ONE such instruction whose state condition is met, so each byte has one meaning. That a
data byte decodes to a data row under the CMD values no run reaches (log 5), and that the system rows keep their
undecoded bits as an operand (log 16), are the model's choices. -/
def Obligations.DecodeReadsTheOneInstructionOfAByte : Prop :=
  ∀ (cmd : Nibble) (b : Byte) (i : Instr),
    (decode cmd b = i → encode i = b) ∧
    (legalCmd cmd = true → (decode cmd b = i ↔ encode i = b ∧ i.wf cmd = true))

/-- R70: the four ranges, their bit tests, that exactly one class holds of each byte, and that the decoder's row is one of
that class, whatever `CMD` is. That a data byte decodes to a data row also under the CMD values no run reaches is the
model's choice (log 5). -/
def Obligations.ByteClassesPartitionAllBytes : Prop :=
  ∀ (cmd : Nibble) (b : Byte),
    (IsVoice b ↔ b.getLsbD 7 = true ∧ hiNibble b ≠ 0xF) ∧
    (IsSysCommon b ↔ hiFive b = 0b11110) ∧
    (IsRealTime b ↔ hiFive b = 0b11111) ∧
    (IsData b ↔ b.getLsbD 7 = false) ∧
    (IsVoice b ∨ IsSysCommon b ∨ IsRealTime b ∨ IsData b) ∧
    ¬(IsVoice b ∧ IsSysCommon b) ∧ ¬(IsVoice b ∧ IsRealTime b) ∧ ¬(IsVoice b ∧ IsData b) ∧
    ¬(IsSysCommon b ∧ IsRealTime b) ∧ ¬(IsSysCommon b ∧ IsData b) ∧ ¬(IsRealTime b ∧ IsData b) ∧
    (IsVoice b ↔ (decode cmd b).rowIndex.val ≤ 6) ∧ (IsSysCommon b ↔ (decode cmd b).rowIndex.val = 7) ∧
    (IsRealTime b ↔ (decode cmd b).rowIndex.val = 8) ∧ (IsData b ↔ 9 ≤ (decode cmd b).rowIndex.val)

/-- The opcode table: under a legal `CMD`, the one row that covers a byte (mask, match and state condition) is the row of the
instruction the byte decodes to, and its state condition is that instruction's. -/
def Obligations.DecodeSelectsTheOneCoveringTableRow : Prop :=
  ∀ (cmd : Nibble) (b : Byte) (i : Instr) (k : Fin 17), legalCmd cmd = true → decode cmd b = i →
    (opcodeTable[k].covers cmd b = true ↔ k = i.rowIndex) ∧
    (opcodeTable[k].covers cmd b = true → opcodeTable[k].cond = i.stateCond)

/-- Words written out from the table's encodings, one for each family, under the `CMD` their row asks for. -/
def Obligations.DecodesTableWords : Prop :=
  decode 0x0 0b10000011 = .vsNoteoff 3 ∧ decode 0x0 0b10011111 = .vsNoteon 15 ∧
  decode 0x9 0b11001000 = .vsProgchg 8 ∧ decode 0x9 0b11101111 = .vsPitchbend 15 ∧
  decode 0x9 0b11110001 = .sysCommon 1 ∧ decode 0xC 0b11111000 = .sysRealtime 0 ∧
  decode 0x0 0b01000000 = .dataIdle 64 ∧ decode 0x8 0b00111100 = .dataNoteoff 60 ∧
  decode 0x9 0b01111111 = .dataNoteon 127 ∧ decode 0xC 0b00000101 = .dataProgchg 5 ∧
  decode 0xA 0b00111100 = .dataPolyat 60 ∧ decode 0xE 0b00000000 = .dataPitchbend 0

/-- R120's dispatch table: `CMD` as read before the step selects the rule a data byte runs, on every channel alike. -/
def Obligations.DataByteDispatchFollowsCmd : Prop :=
  ∀ (s : State) (b : Byte), IsData b →
    (s.cmd = 0x0 → feed b s = exec (.dataIdle (loSeven b)) s) ∧
    (s.cmd = 0x8 → feed b s = exec (.dataNoteoff (loSeven b)) s) ∧
    (s.cmd = 0x9 → feed b s = exec (.dataNoteon (loSeven b)) s) ∧
    (s.cmd = 0xC → feed b s = exec (.dataProgchg (loSeven b)) s) ∧
    (s.cmd = 0xD → feed b s = exec (.dataChanpress (loSeven b)) s) ∧
    (s.cmd = 0xA → feed b s = exec (.dataPolyat (loSeven b)) s) ∧
    (s.cmd = 0xB → feed b s = exec (.dataCc (loSeven b)) s) ∧
    (s.cmd = 0xE → feed b s = exec (.dataPitchbend (loSeven b)) s)

/-- The model's choice for the `CMD` values no run reaches (log 5; R120: "a model may either do so or assert their
unreachability"): a data byte runs the generic two-byte rule R127, with `CMD << 4` as the command. -/
def Obligations.UnreachableCommandsRunTheGenericRule : Prop :=
  ∀ (s : State) (b : Byte), IsData b → legalCmd s.cmd = false →
    (s.DataEmpty → feed b s =
      .next { s with d1 := loSeven b, d1v := s.d1vWritten 1, event := none, done := false }) ∧
    (¬s.DataEmpty → feed b s = .next { s with
      d1 := 0, d2 := 0, d1v := s.d1vWritten 0, done := true,
      event := some ⟨.thru, s.chan.toNat + 1, s.cmd ++ 0#4, s.d1, some (loSeven b), s.cfg.portId⟩ })

/-- R76: the two operands a voice status byte carries, and their ranges. -/
def Obligations.CommandAndChannelArithmetic : Prop :=
  ∀ b : Byte, IsVoice b →
    commandOf (hiNibble b) = b &&& 0xF0 ∧
    commandOf (hiNibble b) = hiNibble b ++ 0#4 ∧
    0x80 ≤ commandOf (hiNibble b) ∧ commandOf (hiNibble b) ≤ 0xE0 ∧
    channelOf (loNibble b) = 1 + (b &&& 0x0F).toNat ∧
    1 ≤ channelOf (loNibble b) ∧ channelOf (loNibble b) ≤ 16

/-- R89: the expansion of every shorthand, and the ranges of `SYS` and `RT`; R71, R72: a status byte so written decodes to its
row with channel − 1 as operand; R75: a data byte carries its value unchanged. That `SYS x` and `RT x` expand to `[x]`
for a byte outside their ranges too is the model's choice (log 17). -/
def Obligations.ShorthandsExpandToTheirMessages : Prop :=
  ∀ (ch : Nat) (a v : Data7) (x : Byte) (cmd : Nibble), 1 ≤ ch → ch ≤ 16 →
    ((Shorthand.noteOff ch a v).bytes = [0x80 + BitVec.ofNat 8 (ch - 1), dataByte a, dataByte v] ∧
     (Shorthand.noteOn ch a v).bytes = [0x90 + BitVec.ofNat 8 (ch - 1), dataByte a, dataByte v] ∧
     (Shorthand.polyAt ch a v).bytes = [0xA0 + BitVec.ofNat 8 (ch - 1), dataByte a, dataByte v] ∧
     (Shorthand.cc ch a v).bytes = [0xB0 + BitVec.ofNat 8 (ch - 1), dataByte a, dataByte v] ∧
     (Shorthand.prog ch a).bytes = [0xC0 + BitVec.ofNat 8 (ch - 1), dataByte a] ∧
     (Shorthand.chPress ch a).bytes = [0xD0 + BitVec.ofNat 8 (ch - 1), dataByte a] ∧
     (Shorthand.bend ch a v).bytes = [0xE0 + BitVec.ofNat 8 (ch - 1), dataByte a, dataByte v] ∧
     (Shorthand.rs2 a v).bytes = [dataByte a, dataByte v] ∧ (Shorthand.rs1 a).bytes = [dataByte a] ∧
     (Shorthand.sys x).bytes = [x] ∧ (Shorthand.rt x).bytes = [x] ∧ (Shorthand.data v).bytes = [dataByte v]) ∧
    ((Shorthand.sys x).wf = true ↔ IsSysCommon x) ∧ ((Shorthand.rt x).wf = true ↔ IsRealTime x) ∧
    decode cmd (statusByte 0x80 ch) = .vsNoteoff (BitVec.ofNat 4 (ch - 1)) ∧
    decode cmd (statusByte 0x90 ch) = .vsNoteon (BitVec.ofNat 4 (ch - 1)) ∧
    decode cmd (statusByte 0xA0 ch) = .vsPolyat (BitVec.ofNat 4 (ch - 1)) ∧
    decode cmd (statusByte 0xB0 ch) = .vsCc (BitVec.ofNat 4 (ch - 1)) ∧
    decode cmd (statusByte 0xC0 ch) = .vsProgchg (BitVec.ofNat 4 (ch - 1)) ∧
    decode cmd (statusByte 0xD0 ch) = .vsChanpress (BitVec.ofNat 4 (ch - 1)) ∧
    decode cmd (statusByte 0xE0 ch) = .vsPitchbend (BitVec.ofNat 4 (ch - 1)) ∧
    IsData (dataByte a) ∧ loSeven (dataByte a) = a

/-! ## Status bytes -/

/-- R101 over the bytes: what a voice status byte writes, from every state. -/
def Obligations.VoiceStatusByteSetsRunningStatus : Prop :=
  ∀ (b : Byte) (s : State), IsVoice b →
    feed b s = .next { s with
      cmd := hiNibble b, chan := loNibble b, d1 := 0, d2 := 0, d1v := s.d1vWritten 0,
      event := none, done := false }

/-- R102–R108: each of the seven voice status rows completes in every state with its own command nibble, is encoded
`1ccc nnnn`, and later data bytes run the data row that belongs to it. -/
def Obligations.VoiceStatusRowsComplete : Prop :=
  ∀ (s : State) (n : Nibble) (v : Data7) (row : (Nibble → Instr) × Nibble × (Data7 → Instr)),
    row ∈ voiceRows →
    exec (row.1 n) s = .next { s with
      cmd := row.2.1, chan := n, d1 := 0, d2 := 0, d1v := s.d1vWritten 0, event := none, done := false } ∧
    encode (row.1 n) = row.2.1 ++ n ∧
    decode s.cmd (row.2.1 ++ n) = row.1 n ∧
    decode row.2.1 (dataByte v) = row.2.2 v

/-- R109: a System Common byte clears `CMD` and writes no other register, whatever its low bits; data bytes after it are
discarded by DATA_IDLE. -/
def Obligations.SystemCommonClearsOnlyCmd : Prop :=
  ∀ (s : State) (x : Bits3) (b : Byte) (v : Data7),
    exec (.sysCommon x) s = .next { s with cmd := 0, event := none, done := false } ∧
    (IsSysCommon b → feed b s = .next { s with cmd := 0, event := none, done := false }) ∧
    decode 0x0 (dataByte v) = .dataIdle v

/-- R110: a Real-Time byte writes no register, whatever its low bits; 0xFF does not reset the decoder. -/
def Obligations.RealTimeByteChangesNoRegister : Prop :=
  ∀ (s : State) (x : Bits3) (b : Byte),
    exec (.sysRealtime x) s = .next { s with event := none, done := false } ∧
    (IsRealTime b → feed b s = .next { s with event := none, done := false }) ∧
    feed 0xFF s = .next { s with event := none, done := false }

/-! ## Data bytes -/

/-- R121: with no running status a data byte is discarded. That exec of the row does the same under any other `CMD`, where the
step never runs it, is the model's choice (log 12). -/
def Obligations.IdleDataByteIsDiscarded : Prop :=
  ∀ (s : State) (v : Data7),
    exec (.dataIdle v) s = .next { s with event := none, done := false } ∧
    (s.cmd = 0x0 → feed (dataByte v) s = .next { s with event := none, done := false })

/-- R122: DATA_NOTEOFF, first and second byte, in both modes. That exec of the row does the same under a `CMD` other than 0x8,
where the step never runs it, is the model's choice (log 12). -/
def Obligations.NoteOffDataBytes : Prop :=
  ∀ (s : State) (v : Data7),
    (s.DataEmpty → exec (.dataNoteoff v) s =
      .next { s with d1 := v, d1v := s.d1vWritten 1, event := none, done := false }) ∧
    (¬s.DataEmpty → exec (.dataNoteoff v) s = .next { s with
      d1 := 0, d2 := 0, d1v := s.d1vWritten 0, done := false,
      event := some ⟨.noteOff, s.chan.toNat + 1, 0x80, s.d1, some v, s.cfg.portId⟩ }) ∧
    (s.cmd = 0x8 → feed (dataByte v) s = exec (.dataNoteoff v) s)

/-- R123: DATA_NOTEON, first byte, second byte zero (a NoteOff that keeps command 0x90) and second byte not zero. That exec of
the row does the same under a `CMD` other than 0x9, where the step never runs it, is the model's choice (log 12). -/
def Obligations.NoteOnDataBytes : Prop :=
  ∀ (s : State) (v : Data7),
    (s.DataEmpty → exec (.dataNoteon v) s =
      .next { s with d1 := v, d1v := s.d1vWritten 1, event := none, done := false }) ∧
    (¬s.DataEmpty → v = 0 → exec (.dataNoteon v) s = .next { s with
      d1 := 0, d2 := 0, d1v := s.d1vWritten 0, done := false,
      event := some ⟨.noteOff, s.chan.toNat + 1, 0x90, s.d1, some 0, s.cfg.portId⟩ }) ∧
    (¬s.DataEmpty → v ≠ 0 → exec (.dataNoteon v) s = .next { s with
      d1 := 0, d2 := 0, d1v := s.d1vWritten 0, done := false,
      event := some ⟨.noteOn, s.chan.toNat + 1, 0x90, s.d1, some v, s.cfg.portId⟩ }) ∧
    (s.cmd = 0x9 → feed (dataByte v) s = exec (.dataNoteon v) s)

/-- R124–R126: DATA_PROGCHG and DATA_CHANPRESS emit on every data byte and make no empty test. That exec of a row does the
same under any other `CMD`, with `CMD << 4` as the command, is the model's choice (log 12). -/
def Obligations.OneByteMessagesEmitAtOnce : Prop :=
  ∀ (s : State) (v : Data7) (i : Instr), i = .dataProgchg v ∨ i = .dataChanpress v →
    exec i s = .next { s with
      d1 := 0, done := false,
      event := some ⟨.thru, s.chan.toNat + 1, s.cmd ++ 0#4, v, none, s.cfg.portId⟩ } ∧
    (s.cmd = 0xC → feed (dataByte v) s = exec (.dataProgchg v) s ∧ s.cmd ++ 0#4 = 0xC0#8) ∧
    (s.cmd = 0xD → feed (dataByte v) s = exec (.dataChanpress v) s ∧ s.cmd ++ 0#4 = 0xD0#8)

/-- R127–R130: DATA_POLYAT, DATA_CC and DATA_PITCHBEND, first and second byte, in both modes; the second byte signals
completion, whatever its value. That exec of a row does the same under any other `CMD`, with `CMD << 4` as the command, is
the model's choice (log 12). -/
def Obligations.GenericTwoByteMessages : Prop :=
  ∀ (s : State) (v : Data7) (i : Instr), i = .dataPolyat v ∨ i = .dataCc v ∨ i = .dataPitchbend v →
    (s.DataEmpty → exec i s =
      .next { s with d1 := v, d1v := s.d1vWritten 1, event := none, done := false }) ∧
    (¬s.DataEmpty → exec i s = .next { s with
      d1 := 0, d2 := 0, d1v := s.d1vWritten 0, done := true,
      event := some ⟨.thru, s.chan.toNat + 1, s.cmd ++ 0#4, s.d1, some v, s.cfg.portId⟩ }) ∧
    (s.cmd = 0xA → feed (dataByte v) s = exec (.dataPolyat v) s ∧ s.cmd ++ 0#4 = 0xA0#8) ∧
    (s.cmd = 0xB → feed (dataByte v) s = exec (.dataCc v) s ∧ s.cmd ++ 0#4 = 0xB0#8) ∧
    (s.cmd = 0xE → feed (dataByte v) s = exec (.dataPitchbend v) s ∧ s.cmd ++ 0#4 = 0xE0#8)

/-- R27: the predicate that selects first against second data byte, per mode. -/
def Obligations.DataEmptyTestPerMode : Prop :=
  ∀ s : State,
    (s.cfg.emptyMode = .faithful → (s.d1Empty = true ↔ s.d1 = 0)) ∧
    (s.cfg.emptyMode = .explicit → (s.d1Empty = true ↔ s.d1v = 0))

/-- The spec's inference R131 ("In `FAITHFUL` mode ... a data byte `v = 0` leaves the state unchanged and emits nothing"): the zero byte leaves the registers as they are, and the byte after it
is taken as the first data byte. -/
def Obligations.FaithfulModeAbsorbsZeroFirstByte : Prop :=
  ∀ (s : State) (v : Data7), s.cfg.emptyMode = .faithful → twoByteCmd s.cmd = true → s.d1 = 0 →
    feed (dataByte 0) s = .next { s with event := none, done := false } ∧
    runBytes [dataByte 0, dataByte v] s =
      .next ([(none, false), (none, false)], { s with d1 := v, event := none, done := false })

/-! ## Outputs -/

/-- R158: `done` is 1 exactly when the step ran the second-byte branch of R127 (class Other, data1 set). That the
unreachable CMD values 0x1-0x7 and 0xF are of the class Other and run the generic rule is the model's choice (log 5). -/
def Obligations.DoneExactlyOnGenericCompletion : Prop :=
  ∀ (b : Byte) (s : State), NextSuch (feed b s) fun t =>
    (t.done = true ↔ IsData b ∧ cmdClass s.cmd = .other ∧ ¬s.DataEmpty)

/-- R150: which bytes emit, and that channel, port identifier and first datum come from the registers before they are
cleared. No status byte emits. That a data byte completes under the unreachable CMD values too is the model's choice
(log 5). -/
def Obligations.EventFieldsComeFromRegisters : Prop :=
  ∀ (b : Byte) (s : State), NextSuch (feed b s) fun t =>
    (¬IsData b → t.event = none) ∧
    (IsData b → s.cmd = 0x0 → t.event = none) ∧
    (IsData b → s.cmd = 0xC ∨ s.cmd = 0xD → t.event = some (s.singleEvent (loSeven b))) ∧
    (IsData b → twoByteCmd s.cmd = true → s.DataEmpty → t.event = none) ∧
    (IsData b → twoByteCmd s.cmd = true → ¬s.DataEmpty → t.event = some (s.pairEvent s.d1 (loSeven b)))

/-- The spec's inference R160 ("The events the rules can produce take these values"): the events a step can emit from a state at a step boundary take the table's values.
That a step on an exhausted input completes, as an edge without a byte, is the model's choice (log 6). -/
def Obligations.EmittedEventsTakeReachableValues : Prop :=
  ∀ s : State, s.Inv → NextSuch (step s) fun t =>
    ∀ e : Event, t.event = some e → e.Reachable s.cfg.emptyMode ∧ e.portId = s.cfg.portId

/-- R83, R87 and the kind code of R80. That the pins and the observation port are read off the state after the step is
the model's reading of R82 (log 7, log 8). -/
def Obligations.EventPinsShowValidity : Prop :=
  ∀ s : State,
    (s.pins.evValid = true ↔ s.event ≠ none) ∧
    (s.pins.evValid = true → s.pins.evKind ≠ 0b00) ∧
    (s.pins.evValid = false ↔ s.pins.evKind = 0b00) ∧
    (s.pins.evValid = false →
      s.pins = ⟨false, 0, 0, 0, 0, 0, false, 0, false, s.pins.done⟩) ∧
    s.pins.done = s.done

/-- R84 and R85: the pins after a step that emitted, in the registers the emitting rule read. That a data byte under the
unreachable CMD values emits as the generic rule does is the model's choice (log 5), and that the pins are read off the
state after the step is its reading of R82 (log 7, log 8). -/
def Obligations.EventPinsCarryTheEvent : Prop :=
  ∀ (b : Byte) (s : State), NextSuch (feed b s) fun t =>
    t.cfg = s.cfg ∧ ∀ e : Event, t.event = some e →
      t.pins.evKind = e.kind.code ∧ t.pins.evChan = s.chan ∧ t.pins.evCmd = e.command ∧ t.pins.evD1 = e.data1 ∧
      (e.kind = .noteOn → t.pins.evCmd = 0x90) ∧
      (e.kind = .noteOff → t.pins.evCmd = 0x80 ∨ t.pins.evCmd = 0x90) ∧
      (e.kind = .thru → t.pins.evCmd = s.cmd ++ 0#4) ∧
      (∀ v : Data7, e.data2 = some v → t.pins.evD2 = v ∧ t.pins.evD2Valid = true) ∧
      (e.data2 = none → t.pins.evD2 = 0 ∧ t.pins.evD2Valid = false) ∧
      (∀ p : Nat, s.cfg.portId = some p → t.pins.evPort = p ∧ t.pins.evPortValid = true) ∧
      (s.cfg.portId = none → t.pins.evPort = 0 ∧ t.pins.evPortValid = false)

/-- R40: the observation port. That the observation port is a function of the state is the model's reading of R40 (log
8). -/
def Obligations.ObservationPortShowsRegisters : Prop :=
  ∀ s : State,
    s.observation.stCmd = s.cmd ∧ s.observation.stChan = s.chan ∧ s.observation.stD1 = s.d1 ∧
    s.observation.stD2 = s.d2 ∧
    (s.cfg.emptyMode = .explicit → s.observation.stD1v = some s.d1v) ∧
    (s.cfg.emptyMode = .faithful → s.observation.stD1v = none)

/-- R156, R157: a filled slot invokes its handler with the event's fields, an empty slot gives the default trace, and
redirecting one slot leaves deliveries of the other kinds as they were. That a handler is an opaque number and the sink
a function beside the machine is the model's choice (log 10). -/
def Obligations.SinkDeliversBySlot : Prop :=
  ∀ (k : Sink) (e : Event) (kind : EventKind) (h : Nat),
    (k.redirect e.kind (some h)).deliver e =
      .invoke h ⟨e.channel, e.command, e.data1, e.data2, e.portId⟩ ∧
    (k.redirect e.kind none).deliver e = .trace e.kind e.channel e.data1 e.data2 ∧
    (kind ≠ e.kind → (k.redirect kind (some h)).deliver e = k.deliver e ∧ (k.redirect kind none).deliver e = k.deliver e)

/-! ## The step, reset and the input -/

/-- A step at which a byte stands next runs the instruction it decodes to under `CMD` as read before the step (R81,
R100, R120), on the state whose input has moved on by that edge and nothing else. -/
def Obligations.StepRunsTheDecodedByte : Prop :=
  ∀ (s : State) (e : Edge) (rest : List Edge), s.input = e :: rest → e.rst = false → e.inValid = true →
    step s = exec (decode s.cmd e.inByte) { s with input := rest }

/-- R230, R232: an edge with `rst = 1` resets every register, whatever else stands on the pins, and its byte has no effect.
Two clauses are the model's choices: that `CHAN` takes the parameter `chanReset` at every reset (log 3; the spec leaves the
value open), and that the reset edge is taken off the input and the edges after it stay (log 15). -/
def Obligations.ResetEdgeWinsOverAByte : Prop :=
  ∀ (s : State) (e : Edge) (rest : List Edge), s.input = e :: rest → e.rst = true →
    step s = .next { s with
      cmd := 0, chan := s.cfg.chanReset, d1 := 0, d2 := 0, d1v := s.d1vWritten 0,
      event := none, done := false, input := rest }

/-- R41 at the creation of an instance, for every choice of parameters (`CHAN` at the parameter `CHAN_RESET`, which is
the model's choice for the value the spec leaves open, log 3), and R88: in
the cycle after a reset edge, from any state, the outputs are 0 and the observation port shows the reset state. That the
pins and the observation port are read off the state after the step is the model's reading of R82 (log 7, log 8). -/
def Obligations.ResetStateAndPins : Prop :=
  ∀ (c : Config) (s : State) (v : Bool) (b : Byte),
    (State.resetOf c).cmd = 0 ∧ (State.resetOf c).chan = c.chanReset ∧ (State.resetOf c).d1 = 0 ∧
    (State.resetOf c).d2 = 0 ∧ (c.emptyMode = .explicit → (State.resetOf c).d1v = 0) ∧ (State.resetOf c).cfg = c ∧
    (State.resetOf c).pins = ⟨false, 0, 0, 0, 0, 0, false, 0, false, false⟩ ∧
    NextSuch (clockEdge ⟨true, v, b⟩ s) fun t =>
      t.pins = ⟨false, 0, 0, 0, 0, 0, false, 0, false, false⟩ ∧
      t.observation = (State.resetOf s.cfg).observation

/-- R81, R211: an edge without a byte is no step: registers hold, no event, `done` 0. That an exhausted input (no edge left to
present) counts as such an edge, and stays empty, is the model's choice (log 6). -/
def Obligations.EdgeWithoutByteHoldsRegisters : Prop :=
  ∀ s : State, (∀ (e : Edge) (rest : List Edge), s.input = e :: rest → e.rst = false ∧ e.inValid = false) →
    step s = .next { s with event := none, done := false, input := s.input.tail }

/-- R200: no fault and no refusal, from any state, for any instruction and at any step. Three clauses are the model's
choices: that exec of a data row answers under a CMD not its own, where the step never runs it (log 12), that a data
byte under the unreachable CMD values runs the generic rule (log 5), and that a step on an exhausted input is an edge
without a byte (log 6). -/
def Obligations.NothingEverStops : Prop :=
  (∀ s : State, NextSuch (step s) fun _ => True) ∧
  (∀ (i : Instr) (s : State), NextSuch (exec i s) fun _ => True) ∧
  (∀ (bs : List Byte) (s : State), ∃ os t, runBytes bs s = .next (os, t) ∧ os.length = bs.length)

/-- R36 (each byte is consumed by one step, and the stream position never skips or repeats) and R38 (no byte writes an
instance parameter). R36 speaks of bytes; that an edge without a byte and a reset edge are taken off the input like one with
a byte is the model's choice (log 6, log 15), and so is that an exhausted input stays empty (log 6). That a data byte
under the unreachable CMD values completes too is the model's choice (log 5). -/
def Obligations.StepConsumesOneEdgeAndKeepsParameters : Prop :=
  ∀ s : State, NextSuch (step s) fun t => t.input = s.input.tail ∧ t.cfg = s.cfg

/-- The writers R21, R23, R24, R25 and R26 name, as what every other edge leaves alone. What a data byte does under the
unreachable CMD values is the model's choice (log 5). -/
def Obligations.RegistersHaveOnlyTheirNamedWriters : Prop :=
  ∀ (b : Byte) (s : State), NextSuch (feed b s) fun t =>
    (IsData b ∨ IsRealTime b → t.cmd = s.cmd) ∧
    (¬IsVoice b → t.chan = s.chan) ∧
    (IsSysCommon b ∨ IsRealTime b → t.d1 = s.d1 ∧ t.d2 = s.d2 ∧ t.d1v = s.d1v) ∧
    (IsVoice b → t.d1 = 0 ∧ t.d2 = 0) ∧
    (IsData b → t.d1 = s.d1 ∨ t.d1 = loSeven b ∨ t.d1 = 0) ∧
    (IsData b → t.d2 = s.d2 ∨ t.d2 = 0)

/-- R58, R159: what a step does depends only on the registers, the parameters and the input, not on the event or `done`
the sink was handed before. That a step completes under the unreachable CMD values (log 5) and on an exhausted input
(log 6) is the model's choice. -/
def Obligations.OutputsDoNotFeedBack : Prop :=
  ∀ s t : State, s.SameRegs t → s.input = t.input → step s = step t ∧ NextSuch (step s) fun _ => True

/-- R28: in FAITHFUL mode no rule writes `D1V`, and (the model's choice, log 4) none reads it either: two states that
differ only in it give the same observations over every byte list. What data bytes do under the unreachable CMD values
is the model's choice (log 5). -/
def Obligations.D1VIsInertInFaithfulMode : Prop :=
  ∀ (s : State) (f : BitVec 1) (bs : List Byte), s.cfg.emptyMode = .faithful →
    ∃ os u, runBytes bs s = .next (os, u) ∧ u.d1v = s.d1v ∧
      runBytes bs { s with d1v := f } = .next (os, { u with d1v := f })

/-- R29: the state machine's summary table, row by row, with the note that its last two rows are for two-byte commands
(and, from R131, that in FAITHFUL mode a zero byte stored is no byte stored). That a data byte completes under the
unreachable CMD values too, which the table's last two rows leave out, is the model's choice (log 5). -/
def Obligations.StateMachineTable : Prop :=
  ∀ (b : Byte) (s : State), NextSuch (feed b s) fun t =>
    (s.idle = true ↔ s.cmd = 0) ∧ (s.running = true ↔ s.cmd ≠ 0) ∧ (s.d1Empty = true ↔ s.DataEmpty) ∧
    (IsVoice b → t.running = true ∧ t.cmd = hiNibble b ∧ t.chan = loNibble b ∧ t.DataEmpty ∧ t.d1 = 0 ∧ t.d2 = 0) ∧
    (s.idle = true → ¬IsVoice b → t.SameRegs s ∧ t.event = none) ∧
    (s.running = true → IsSysCommon b → t.idle = true) ∧
    (s.running = true → IsRealTime b → t.SameRegs s) ∧
    (twoByteCmd s.cmd = true → s.DataEmpty → IsData b →
      t.cmd = s.cmd ∧ t.d1 = loSeven b ∧ t.event = none ∧
      (s.cfg.emptyMode = .explicit ∨ loSeven b ≠ 0 → ¬t.DataEmpty)) ∧
    (twoByteCmd s.cmd = true → ¬s.DataEmpty → IsData b →
      t.cmd = s.cmd ∧ t.DataEmpty ∧ t.d1 = 0 ∧ t.d2 = 0 ∧ t.event ≠ none)

/-! ## Invariants -/

/-- The invariant holds at reset, under every legal choice of parameters. The invariant's clauses on D1V in FAITHFUL
mode are the model's (log 4). -/
def Obligations.ResetEstablishesInvariant : Prop :=
  State.reset.Inv ∧ ∀ c : Config, c.wf = true → (State.resetOf c).Inv

/-- Every step keeps the invariant, from every state that has it. The invariant is the spec's inferences R31–R33 ("At every
step boundary ...") and R5; its fields `unmarked` and `inert` are the model's (log 4). That an exhausted input is an
edge without a byte is the model's choice (log 6). -/
def Obligations.StepKeepsInvariant : Prop :=
  ∀ s t : State, s.Inv → step s = .next t → t.Inv

/-- The spec's inferences R31, R32, R33 ("At every step boundary `D2 = 0`", "if `CMD ∈ {0xC, 0xD}` then `D1 = 0`",
"`CMD ∈ {0x0, 0x8, ...}`") in full: at every step boundary of every run from reset, under any parameters and any edges (resets
among them), `D2 = 0`, `CMD` is one of eight values, and one-byte commands leave `D1` (and `D1V`) empty. That a run may take
more steps than there are edges, each then an edge without a byte, is the model's choice (log 6). -/
def Obligations.RegistersAtEveryStepBoundary : Prop :=
  ∀ (c : Config) (es : List Edge) (k : Nat), c.wf = true →
    ∃ os t, runSteps k { State.resetOf c with input := es } = .next (os, t) ∧
      t.d2 = 0 ∧ t.cmd ∈ ([0x0, 0x8, 0x9, 0xA, 0xB, 0xC, 0xD, 0xE] : List Nibble) ∧
      (t.cmd ∈ ([0xC, 0xD] : List Nibble) → t.d1 = 0 ∧ (c.emptyMode = .explicit → t.d1v = 0))

/-! ## Runs -/

/-- The spec's inference R34 ("The stale value never reaches an event") and R35: while Idle, `D1`, `D1V`, `D2` and `CHAN` are unobservable: two Idle states of one instance emit the same
events and completions over every byte list. -/
def Obligations.StaleDataNeverReachesAnEvent : Prop :=
  ∀ (s t : State) (bs : List Byte), s.cfg = t.cfg → s.cmd = 0 → t.cmd = 0 →
    ∃ os u w, runBytes bs s = .next (os, u) ∧ runBytes bs t = .next (os, w)

/-- The spec's inferences R237, R238 ("the framing recovers at the next status byte of rule R101"): a voice status byte re-frames the stream: after it, whatever was pending before, the observations
agree. -/
def Obligations.VoiceStatusResynchronises : Prop :=
  ∀ (s t : State) (b : Byte) (bs : List Byte), s.cfg = t.cfg → IsVoice b →
    ∃ os u w, runBytes (b :: bs) s = .next (os, u) ∧ runBytes (b :: bs) t = .next (os, w)

/-- R109, R121 and the spec's inference R239 ("data bytes sent before it are discarded"): after a System Common byte every byte that is no voice status byte is absorbed, and `CHAN`, `D1`,
`D2` and `D1V` keep their bits. -/
def Obligations.SystemCommonEndsRunningStatus : Prop :=
  ∀ (s : State) (b : Byte) (bs : List Byte), IsSysCommon b → (∀ x ∈ bs, ¬IsVoice x) →
    runBytes (b :: bs) s = .next (List.replicate (bs.length + 1) (none, false),
      { s with cmd := 0, event := none, done := false })

/-- The spec's inference R231 ("a partially assembled message is then discarded without an event"): after a reset in the middle of a message, data bytes are discarded until a voice status byte arrives. -/
def Obligations.ResetDiscardsPendingMessage : Prop :=
  ∀ (s : State) (x : Byte) (v : Bool) (vs : List Data7),
    NextSuch (clockEdge ⟨true, v, x⟩ s) fun r =>
      r.event = none ∧ r.done = false ∧
      ∃ t, runBytes (vs.map dataByte) r = .next (List.replicate vs.length (none, false), t) ∧ t.SameRegs r

/-- R77, R110: Real-Time bytes may stand anywhere: leaving them out changes no event, no completion and no final
register. What data bytes do under the unreachable CMD values is the model's choice (log 5). -/
def Obligations.RealTimeBytesAreTransparent : Prop :=
  ∀ (bs : List Byte) (s : State),
    ∃ os u ps w, runBytes bs s = .next (os, u) ∧
      runBytes (bs.filter fun b => decide (b < 0xF8)) s = .next (ps, w) ∧
      eventsOf os = eventsOf ps ∧ completions os = completions ps ∧ u.SameRegs w

/-- R122, R123, R127 and the spec's inference R133 ("the data bytes alternate strictly first, second, first, second"): under running status of a two-byte command with data1 empty, data bytes pair up first,
second, first, second …, one event a pair: in EXPLICIT mode whatever their values, in FAITHFUL mode when no first byte
is 0 (a zero first byte there is FaithfulModeAbsorbsZeroFirstByte). -/
def Obligations.RunningStatusPairsDataBytes : Prop :=
  ∀ (s : State) (ps : List (Data7 × Data7)), twoByteCmd s.cmd = true → s.DataEmpty →
    (s.cfg.emptyMode = .faithful → ∀ p ∈ ps, p.1 ≠ 0) →
    ∃ t, runBytes (ps.flatMap fun p => [dataByte p.1, dataByte p.2]) s =
        .next (ps.flatMap fun p =>
          [(none, false), (some (s.pairEvent p.1 p.2), decide (cmdClass s.cmd = .other))], t) ∧
      t.cmd = s.cmd ∧ t.chan = s.chan ∧ t.DataEmpty

/-- R124: under running status of a one-byte command every data byte is a message of its own. -/
def Obligations.OneByteRunningStatusRepeats : Prop :=
  ∀ (s : State) (vs : List Data7), s.cmd = 0xC ∨ s.cmd = 0xD →
    ∃ t, runBytes (vs.map dataByte) s = .next (vs.map fun v => (some (s.singleEvent v), false), t) ∧
      t.cmd = s.cmd ∧ t.chan = s.chan ∧ t.d2 = s.d2 ∧ t.d1v = s.d1v

/-- R72, R77: with its status byte, a message of a class takes exactly that many data bytes and emits once, at its last. -/
def Obligations.MessageLengthsByCommand : Prop :=
  ∀ (s : State) (k n : Nibble) (a v : Data7), legalCmd k = true → k ≠ 0 →
    (s.cfg.emptyMode = .faithful → a ≠ 0) →
    let pend : State := { s with cmd := k, chan := n }
    (cmdClass k).dataBytes = (if k = 0xC ∨ k = 0xD then 1 else 2) ∧
    ((cmdClass k).dataBytes = 2 → ∃ t,
      runBytes [k ++ n, dataByte a, dataByte v] s = .next
        ([(none, false), (none, false), (some (pend.pairEvent a v), decide (cmdClass k = .other))], t)) ∧
    ((cmdClass k).dataBytes = 1 → ∃ t,
      runBytes [k ++ n, dataByte a] s = .next ([(none, false), (some (pend.singleEvent a), false)], t))

/-- R58 and the spec's derivation R161 ("events of one instance are never reordered, merged or duplicated"): a run starts with
no observation and gives exactly one a byte; one byte more adds, at the end, the outputs of that byte's own step on the state
the run has reached; and a run of a concatenation is the two runs one after the other. What data bytes do under the
unreachable CMD values is the model's choice (log 5). -/
def Obligations.RunsComposeInByteOrder : Prop :=
  ∀ (as bs : List Byte) (s : State),
    runBytes [] s = .next ([], s) ∧
    ∃ os u ps w, runBytes as s = .next (os, u) ∧ os.length = as.length ∧
      (∀ b : Byte, ∃ t, feed b u = .next t ∧ runBytes (as ++ [b]) s = .next (os ++ [t.obs], t) ∧
        eventsOf (os ++ [t.obs]) = eventsOf os ++ t.event.toList) ∧
      runBytes bs u = .next (ps, w) ∧ runBytes (as ++ bs) s = .next (os ++ ps, w) ∧
      eventsOf (os ++ ps) = eventsOf os ++ eventsOf ps

/-- R6, R81, R211, R242: the clocked machine, fed with reset-free edges some of which present no byte, shows the events,
completions and final registers of the transaction-level run over the bytes presented. What data bytes do under the
unreachable CMD values is the model's choice (log 5). -/
def Obligations.ClockedRunRefinesByteRun : Prop :=
  ∀ (es : List Edge) (s : State), (∀ e ∈ es, e.rst = false) →
    ∃ os u ps w, runSteps es.length { s with input := es } = .next (os, u) ∧
      runBytes (presentedBytes es) s = .next (ps, w) ∧
      eventsOf os = eventsOf ps ∧ completions os = completions ps ∧ u.SameRegs w ∧ u.input = []

/-- The spec's inferences R131, R237 ("In `EXPLICIT` mode there is no such hazard"): the two values of `P_EMPTY_MODE` differ only on zero bytes: on a stream without the byte 0 they give
the same observations, registers `CMD`, `CHAN`, `D1` and `D2`. That CHAN agrees before the first voice status byte rests
on CHAN starting at the same parameter in both (log 3). -/
def Obligations.EmptyModesAgreeWithoutZeroBytes : Prop :=
  ∀ (c : Config) (bs : List Byte), (∀ b ∈ bs, b ≠ 0) →
    ∃ os u w, run { c with emptyMode := .faithful } bs = .next (os, u) ∧
      run { c with emptyMode := .explicit } bs = .next (os, w) ∧
      u.cmd = w.cmd ∧ u.chan = w.chan ∧ u.d1 = w.d1 ∧ u.d2 = w.d2

/-- R209: a clock edge of one instance is that instance's own step and leaves every other instance's state alone. That
instances are a list of states and the caller names the one whose edge comes (log 11), and that an exhausted input is an
edge without a byte (log 6), are the model's choices. -/
def Obligations.InstancesAreIndependent : Prop :=
  ∀ (b : Bank) (k : Nat) (s : State), b[k]? = some s →
    ∃ (after : Bank) (t : State), b.stepAt k = .next after ∧ step s = .next t ∧
      after.length = b.length ∧ after[k]? = some t ∧ ∀ j : Nat, j ≠ k → after[j]? = b[j]?
end

