-- ==== Sys2Proof/Laws/Decode.lean ====
section
/-! SUPPORT. The decoder's own lemmas: the fields of a byte built from its fields, the four classes of R70, and what
`decode` gives on each class. Facts about one byte are finite and closed by `decide`. -/

namespace Sys2Proof.Machine

/-! ### Fields of an encoded byte -/

theorem hiNibble_append (k n : Nibble) : hiNibble (k ++ n) = k := by revert k n; decide

theorem loNibble_append (k n : Nibble) : loNibble (k ++ n) = n := by revert k n; decide

theorem hiFive_append (k : BitVec 5) (x : Bits3) : hiFive (k ++ x) = k := by revert k x; decide

theorem loThree_append (k : BitVec 5) (x : Bits3) : loThree (k ++ x) = x := by revert k x; decide

theorem loSeven_append (k : BitVec 1) (v : Data7) : loSeven (k ++ v) = v := by revert k v; decide

@[simp] theorem loSeven_dataByte (v : Data7) : loSeven (dataByte v) = v := by revert v; decide

theorem dataByte_eq_append (v : Data7) : dataByte v = 0#1 ++ v := by revert v; decide

theorem dataByte_eq_zero (v : Data7) : dataByte v = 0 ↔ v = 0 := by revert v; decide

theorem nibbles_append (b : Byte) : hiNibble b ++ loNibble b = b := by revert b; decide

theorem hiFive_append_loThree (b : Byte) : hiFive b ++ loThree b = b := by revert b; decide

theorem commandOf_eq_append (k : Nibble) : commandOf k = k ++ 0#4 := by revert k; decide

/-! ### The classes of R70 -/

theorem isVoice_iff (b : Byte) : IsVoice b ↔ b.getLsbD 7 = true ∧ hiNibble b ≠ 0xF := by
  unfold IsVoice; revert b; decide

theorem isSysCommon_iff (b : Byte) : IsSysCommon b ↔ hiFive b = 0b11110 := by
  unfold IsSysCommon; revert b; decide

theorem isRealTime_iff (b : Byte) : IsRealTime b ↔ hiFive b = 0b11111 := by
  unfold IsRealTime; revert b; decide

theorem isData_iff (b : Byte) : IsData b ↔ b.getLsbD 7 = false := by
  unfold IsData; revert b; decide

theorem class_cases (b : Byte) : IsVoice b ∨ IsSysCommon b ∨ IsRealTime b ∨ IsData b := by
  unfold IsVoice IsSysCommon IsRealTime IsData; revert b; decide

theorem IsVoice.not_sysCommon {b : Byte} (h : IsVoice b) : ¬IsSysCommon b := by
  revert h; unfold IsVoice IsSysCommon; revert b; decide

theorem IsVoice.not_realTime {b : Byte} (h : IsVoice b) : ¬IsRealTime b := by
  revert h; unfold IsVoice IsRealTime; revert b; decide

theorem IsVoice.not_data {b : Byte} (h : IsVoice b) : ¬IsData b := by
  revert h; unfold IsVoice IsData; revert b; decide

theorem IsSysCommon.not_realTime {b : Byte} (h : IsSysCommon b) : ¬IsRealTime b := by
  revert h; unfold IsSysCommon IsRealTime; revert b; decide

theorem IsSysCommon.not_data {b : Byte} (h : IsSysCommon b) : ¬IsData b := by
  revert h; unfold IsSysCommon IsData; revert b; decide

theorem IsRealTime.not_data {b : Byte} (h : IsRealTime b) : ¬IsData b := by
  revert h; unfold IsRealTime IsData; revert b; decide

theorem isData_dataByte (v : Data7) : IsData (dataByte v) := by
  unfold IsData; revert v; decide

theorem dataByte_loSeven {b : Byte} (h : IsData b) : dataByte (loSeven b) = b := by
  revert h; unfold IsData; revert b; decide

/-- The command nibble of a voice status byte is one of 0x8 … 0xE (R71). -/
theorem IsVoice.hiNibble_mem {b : Byte} (h : IsVoice b) :
    hiNibble b = 0x8 ∨ hiNibble b = 0x9 ∨ hiNibble b = 0xA ∨ hiNibble b = 0xB ∨ hiNibble b = 0xC ∨ hiNibble b = 0xD ∨
      hiNibble b = 0xE := by
  revert h; unfold IsVoice; revert b; decide

theorem isVoice_append {k : Nibble} (n : Nibble) (h : legalCmd k = true) (h0 : k ≠ 0) : IsVoice (k ++ n) := by
  unfold IsVoice; revert h h0; revert k n; decide

/-! ### `decode` on each class -/

theorem decode_voice (cmd : Nibble) {b : Byte} (h : IsVoice b) :
    decode cmd b = decodeVoice (hiNibble b) (loNibble b) :=
  if_pos ((isVoice_iff b).1 h)

theorem decode_sysCommon (cmd : Nibble) {b : Byte} (h : IsSysCommon b) : decode cmd b = .sysCommon (loThree b) := by
  have hv : ¬IsVoice b := fun g => g.not_sysCommon h
  rw [isVoice_iff] at hv
  rw [decode, if_neg hv, if_pos ((isSysCommon_iff b).1 h)]

theorem decode_realTime (cmd : Nibble) {b : Byte} (h : IsRealTime b) : decode cmd b = .sysRealtime (loThree b) := by
  have hv : ¬IsVoice b := fun g => g.not_realTime h
  have hs : ¬IsSysCommon b := fun g => g.not_realTime h
  rw [isVoice_iff] at hv
  rw [isSysCommon_iff] at hs
  rw [decode, if_neg hv, if_neg hs, if_pos ((isRealTime_iff b).1 h)]

theorem decode_data (cmd : Nibble) {b : Byte} (h : IsData b) : decode cmd b = decodeData cmd (loSeven b) := by
  have hv : ¬IsVoice b := fun g => g.not_data h
  have hs : ¬IsSysCommon b := fun g => g.not_data h
  have hr : ¬IsRealTime b := fun g => g.not_data h
  rw [isVoice_iff] at hv
  rw [isSysCommon_iff] at hs
  rw [isRealTime_iff] at hr
  rw [decode, if_neg hv, if_neg hs, if_neg hr]

theorem decode_dataByte (cmd : Nibble) (v : Data7) : decode cmd (dataByte v) = decodeData cmd v := by
  rw [decode_data cmd (isData_dataByte v), loSeven_dataByte]

/-! ### The table's words -/

theorem wordBytes_one (w : Nat) : wordBytes 1 w = [BitVec.ofNat 8 w] := rfl

/-- On one-byte words the table decoder is `decode` under the running status of reset. -/
theorem decodeTableWord_byte (w : Nat) : decodeTableWord 8 w = some (decode 0x0 (BitVec.ofNat 8 w)) := rfl

end Sys2Proof.Machine
end

