-- ==== Sys2Proof/Laws/State.lean ====
section
/-! SUPPORT. What each update of the state leaves in each field, one lemma a field, so that no later proof unfolds a
record update. -/

namespace Sys2Proof.Machine

variable (s : State)

@[simp] theorem State.clearOutputs_cfg : (s.clearOutputs).cfg = s.cfg := rfl
@[simp] theorem State.clearOutputs_cmd : (s.clearOutputs).cmd = s.cmd := rfl
@[simp] theorem State.clearOutputs_chan : (s.clearOutputs).chan = s.chan := rfl
@[simp] theorem State.clearOutputs_d1 : (s.clearOutputs).d1 = s.d1 := rfl
@[simp] theorem State.clearOutputs_d2 : (s.clearOutputs).d2 = s.d2 := rfl
@[simp] theorem State.clearOutputs_d1v : (s.clearOutputs).d1v = s.d1v := rfl
@[simp] theorem State.clearOutputs_event : (s.clearOutputs).event = none := rfl
@[simp] theorem State.clearOutputs_done : (s.clearOutputs).done = false := rfl
@[simp] theorem State.clearOutputs_input : (s.clearOutputs).input = s.input := rfl

@[simp] theorem State.setCmd_cfg (k : Nibble) : (s.setCmd k).cfg = s.cfg := rfl
@[simp] theorem State.setCmd_cmd (k : Nibble) : (s.setCmd k).cmd = k := rfl
@[simp] theorem State.setCmd_chan (k : Nibble) : (s.setCmd k).chan = s.chan := rfl
@[simp] theorem State.setCmd_d1 (k : Nibble) : (s.setCmd k).d1 = s.d1 := rfl
@[simp] theorem State.setCmd_d2 (k : Nibble) : (s.setCmd k).d2 = s.d2 := rfl
@[simp] theorem State.setCmd_d1v (k : Nibble) : (s.setCmd k).d1v = s.d1v := rfl
@[simp] theorem State.setCmd_event (k : Nibble) : (s.setCmd k).event = s.event := rfl
@[simp] theorem State.setCmd_done (k : Nibble) : (s.setCmd k).done = s.done := rfl
@[simp] theorem State.setCmd_input (k : Nibble) : (s.setCmd k).input = s.input := rfl

@[simp] theorem State.setChan_cfg (n : Nibble) : (s.setChan n).cfg = s.cfg := rfl
@[simp] theorem State.setChan_cmd (n : Nibble) : (s.setChan n).cmd = s.cmd := rfl
@[simp] theorem State.setChan_chan (n : Nibble) : (s.setChan n).chan = n := rfl
@[simp] theorem State.setChan_d1 (n : Nibble) : (s.setChan n).d1 = s.d1 := rfl
@[simp] theorem State.setChan_d2 (n : Nibble) : (s.setChan n).d2 = s.d2 := rfl
@[simp] theorem State.setChan_d1v (n : Nibble) : (s.setChan n).d1v = s.d1v := rfl
@[simp] theorem State.setChan_event (n : Nibble) : (s.setChan n).event = s.event := rfl
@[simp] theorem State.setChan_done (n : Nibble) : (s.setChan n).done = s.done := rfl
@[simp] theorem State.setChan_input (n : Nibble) : (s.setChan n).input = s.input := rfl

@[simp] theorem State.setD1_cfg (v : Data7) : (s.setD1 v).cfg = s.cfg := rfl
@[simp] theorem State.setD1_cmd (v : Data7) : (s.setD1 v).cmd = s.cmd := rfl
@[simp] theorem State.setD1_chan (v : Data7) : (s.setD1 v).chan = s.chan := rfl
@[simp] theorem State.setD1_d1 (v : Data7) : (s.setD1 v).d1 = v := rfl
@[simp] theorem State.setD1_d2 (v : Data7) : (s.setD1 v).d2 = s.d2 := rfl
@[simp] theorem State.setD1_d1v (v : Data7) : (s.setD1 v).d1v = s.d1v := rfl
@[simp] theorem State.setD1_event (v : Data7) : (s.setD1 v).event = s.event := rfl
@[simp] theorem State.setD1_done (v : Data7) : (s.setD1 v).done = s.done := rfl
@[simp] theorem State.setD1_input (v : Data7) : (s.setD1 v).input = s.input := rfl

@[simp] theorem State.setD2_cfg (v : Data7) : (s.setD2 v).cfg = s.cfg := rfl
@[simp] theorem State.setD2_cmd (v : Data7) : (s.setD2 v).cmd = s.cmd := rfl
@[simp] theorem State.setD2_chan (v : Data7) : (s.setD2 v).chan = s.chan := rfl
@[simp] theorem State.setD2_d1 (v : Data7) : (s.setD2 v).d1 = s.d1 := rfl
@[simp] theorem State.setD2_d2 (v : Data7) : (s.setD2 v).d2 = v := rfl
@[simp] theorem State.setD2_d1v (v : Data7) : (s.setD2 v).d1v = s.d1v := rfl
@[simp] theorem State.setD2_event (v : Data7) : (s.setD2 v).event = s.event := rfl
@[simp] theorem State.setD2_done (v : Data7) : (s.setD2 v).done = s.done := rfl
@[simp] theorem State.setD2_input (v : Data7) : (s.setD2 v).input = s.input := rfl

@[simp] theorem State.emit_cfg (e : Event) : (s.emit e).cfg = s.cfg := rfl
@[simp] theorem State.emit_cmd (e : Event) : (s.emit e).cmd = s.cmd := rfl
@[simp] theorem State.emit_chan (e : Event) : (s.emit e).chan = s.chan := rfl
@[simp] theorem State.emit_d1 (e : Event) : (s.emit e).d1 = s.d1 := rfl
@[simp] theorem State.emit_d2 (e : Event) : (s.emit e).d2 = s.d2 := rfl
@[simp] theorem State.emit_d1v (e : Event) : (s.emit e).d1v = s.d1v := rfl
@[simp] theorem State.emit_event (e : Event) : (s.emit e).event = some e := rfl
@[simp] theorem State.emit_done (e : Event) : (s.emit e).done = s.done := rfl
@[simp] theorem State.emit_input (e : Event) : (s.emit e).input = s.input := rfl

@[simp] theorem State.setDone_cfg : (s.setDone).cfg = s.cfg := rfl
@[simp] theorem State.setDone_cmd : (s.setDone).cmd = s.cmd := rfl
@[simp] theorem State.setDone_chan : (s.setDone).chan = s.chan := rfl
@[simp] theorem State.setDone_d1 : (s.setDone).d1 = s.d1 := rfl
@[simp] theorem State.setDone_d2 : (s.setDone).d2 = s.d2 := rfl
@[simp] theorem State.setDone_d1v : (s.setDone).d1v = s.d1v := rfl
@[simp] theorem State.setDone_event : (s.setDone).event = s.event := rfl
@[simp] theorem State.setDone_done : (s.setDone).done = true := rfl
@[simp] theorem State.setDone_input : (s.setDone).input = s.input := rfl

@[simp] theorem State.advance_cfg : (s.advance).cfg = s.cfg := rfl
@[simp] theorem State.advance_cmd : (s.advance).cmd = s.cmd := rfl
@[simp] theorem State.advance_chan : (s.advance).chan = s.chan := rfl
@[simp] theorem State.advance_d1 : (s.advance).d1 = s.d1 := rfl
@[simp] theorem State.advance_d2 : (s.advance).d2 = s.d2 := rfl
@[simp] theorem State.advance_d1v : (s.advance).d1v = s.d1v := rfl
@[simp] theorem State.advance_event : (s.advance).event = s.event := rfl
@[simp] theorem State.advance_done : (s.advance).done = s.done := rfl
@[simp] theorem State.advance_input : (s.advance).input = s.input.tail := rfl

@[simp] theorem State.present_cfg (bs : List Byte) : (s.present bs).cfg = s.cfg := rfl
@[simp] theorem State.present_cmd (bs : List Byte) : (s.present bs).cmd = s.cmd := rfl
@[simp] theorem State.present_chan (bs : List Byte) : (s.present bs).chan = s.chan := rfl
@[simp] theorem State.present_d1 (bs : List Byte) : (s.present bs).d1 = s.d1 := rfl
@[simp] theorem State.present_d2 (bs : List Byte) : (s.present bs).d2 = s.d2 := rfl
@[simp] theorem State.present_d1v (bs : List Byte) : (s.present bs).d1v = s.d1v := rfl
@[simp] theorem State.present_event (bs : List Byte) : (s.present bs).event = s.event := rfl
@[simp] theorem State.present_done (bs : List Byte) : (s.present bs).done = s.done := rfl
@[simp] theorem State.present_input (bs : List Byte) : (s.present bs).input = bs.map Edge.byte ++ s.input := rfl

/-! `D1V <- f` writes in EXPLICIT mode only (R28). -/

@[simp] theorem State.setD1V_cfg (f : BitVec 1) : (s.setD1V f).cfg = s.cfg := by
  unfold State.setD1V; split <;> rfl
@[simp] theorem State.setD1V_cmd (f : BitVec 1) : (s.setD1V f).cmd = s.cmd := by
  unfold State.setD1V; split <;> rfl
@[simp] theorem State.setD1V_chan (f : BitVec 1) : (s.setD1V f).chan = s.chan := by
  unfold State.setD1V; split <;> rfl
@[simp] theorem State.setD1V_d1 (f : BitVec 1) : (s.setD1V f).d1 = s.d1 := by
  unfold State.setD1V; split <;> rfl
@[simp] theorem State.setD1V_d2 (f : BitVec 1) : (s.setD1V f).d2 = s.d2 := by
  unfold State.setD1V; split <;> rfl
@[simp] theorem State.setD1V_d1v (f : BitVec 1) : (s.setD1V f).d1v = s.d1vWritten f := by
  unfold State.setD1V State.d1vWritten; cases h : s.cfg.emptyMode <;> simp
@[simp] theorem State.setD1V_event (f : BitVec 1) : (s.setD1V f).event = s.event := by
  unfold State.setD1V; split <;> rfl
@[simp] theorem State.setD1V_done (f : BitVec 1) : (s.setD1V f).done = s.done := by
  unfold State.setD1V; split <;> rfl
@[simp] theorem State.setD1V_input (f : BitVec 1) : (s.setD1V f).input = s.input := by
  unfold State.setD1V; split <;> rfl

theorem State.d1vWritten_explicit (f : BitVec 1) (h : s.cfg.emptyMode = .explicit) : s.d1vWritten f = f := if_pos h

theorem State.d1vWritten_faithful (f : BitVec 1) (h : s.cfg.emptyMode = .faithful) : s.d1vWritten f = s.d1v :=
  if_neg (by simp [h])

theorem State.SameRegs.refl : s.SameRegs s := ⟨rfl, rfl, rfl, rfl, rfl, rfl⟩

theorem State.SameRegs.symm {s t : State} (h : s.SameRegs t) : t.SameRegs s :=
  ⟨h.1.symm, h.2.1.symm, h.2.2.1.symm, h.2.2.2.1.symm, h.2.2.2.2.1.symm, h.2.2.2.2.2.symm⟩

theorem State.SameRegs.trans {s t u : State} (h : s.SameRegs t) (g : t.SameRegs u) : s.SameRegs u :=
  ⟨h.1.trans g.1, h.2.1.trans g.2.1, h.2.2.1.trans g.2.2.1, h.2.2.2.1.trans g.2.2.2.1,
   h.2.2.2.2.1.trans g.2.2.2.2.1, h.2.2.2.2.2.trans g.2.2.2.2.2⟩

end Sys2Proof.Machine
end

