-- ==== Sys2Proof/Laws/Ops.lean ====
section
/-! SUPPORT. Each shared operation as one record update: everything it can do, said once. -/

namespace Sys2Proof.Machine

variable (s : State)

theorem State.d1Empty_iff : s.d1Empty = true ↔ s.DataEmpty := by
  unfold State.d1Empty State.DataEmpty; cases s.cfg.emptyMode <;> simp

/-- Whatever clears the data (R28) leaves data1 empty, in both modes. -/
theorem State.dataEmpty_of_cleared {t : State} (hc : t.cfg = s.cfg) (h1 : t.d1 = 0) (hv : t.d1v = s.d1vWritten 0) :
    t.DataEmpty := by
  cases hm : s.cfg.emptyMode with
  | faithful => exact .inl ⟨by rw [hc, hm], h1⟩
  | explicit => exact .inr ⟨by rw [hc, hm], by rw [hv, s.d1vWritten_explicit 0 hm]⟩

/-- Storing a first data byte makes data1 set, unless it is a zero byte in FAITHFUL mode (R131). -/
theorem State.not_dataEmpty_of_stored {t : State} {v : Data7} (hc : t.cfg = s.cfg) (h1 : t.d1 = v)
    (hv : t.d1v = s.d1vWritten 1) (hz : s.cfg.emptyMode = .faithful → v ≠ 0) : ¬t.DataEmpty := by
  rintro (⟨hm, h0⟩ | ⟨hm, h0⟩)
  · exact hz (hc ▸ hm) (h1 ▸ h0)
  · rw [hv, s.d1vWritten_explicit 1 (hc ▸ hm)] at h0
    exact absurd h0 (by decide)

theorem State.setD1V_eq (f : BitVec 1) : s.setD1V f = { s with d1v := s.d1vWritten f } := by
  unfold State.setD1V State.d1vWritten; cases h : s.cfg.emptyMode <;> simp

theorem State.clearData_eq : s.clearData = { s with d1 := 0, d2 := 0, d1v := s.d1vWritten 0 } := by
  rw [State.clearData, State.setD1V_eq]; rfl

theorem State.voiceStatus_eq (k n : Nibble) : s.voiceStatus k n =
    { s with cmd := k, chan := n, d1 := 0, d2 := 0, d1v := s.d1vWritten 0, event := none, done := false } := by
  rw [State.voiceStatus, State.clearData_eq]; rfl

theorem State.storeFirst_eq (v : Data7) : s.storeFirst v =
    { s with d1 := v, d1v := s.d1vWritten 1, event := none, done := false } := by
  rw [State.storeFirst, State.setD1V_eq]; rfl

theorem State.completeSecond_eq (v : Data7) (kind : EventKind) (command : Byte) : s.completeSecond v kind command =
    { s with
      d1 := 0, d2 := 0, d1v := s.d1vWritten 0, done := false,
      event := some ⟨kind, s.chan.toNat + 1, command, s.d1, some v, s.cfg.portId⟩ } := by
  rw [State.completeSecond, State.clearData_eq]; rfl

theorem State.oneByte_eq (v : Data7) : s.oneByte v =
    { s with d1 := 0, done := false, event := some (s.singleEvent v) } := by
  simp only [State.oneByte, State.eventOf, commandOf_eq_append]; rfl

theorem State.applyReset_eq : s.applyReset =
    { s with
      cmd := 0, chan := s.cfg.chanReset, d1 := 0, d2 := 0, d1v := s.d1vWritten 0, event := none, done := false } := by
  rw [State.applyReset, State.clearData_eq]; rfl

/-- A reset leaves the state an instance is created in, but for the edges still to come, provided `D1V` is a register or
at its resting value (log 4). -/
theorem State.applyReset_eq_resetOf (h : s.cfg.emptyMode = .faithful → s.d1v = 0) :
    s.applyReset = { State.resetOf s.cfg with input := s.input } := by
  rw [State.applyReset_eq]
  have hd : s.d1vWritten 0 = 0 := by
    cases hm : s.cfg.emptyMode with
    | faithful => rw [s.d1vWritten_faithful 0 hm, h hm]
    | explicit => exact s.d1vWritten_explicit 0 hm
  rw [hd]; rfl

end Sys2Proof.Machine
end

