-- ==== Sys2Proof/Laws/Feed.lean ====
section
/-! SUPPORT. What one byte can do, said once: `feed_cases` is the inversion lemma of the transaction-level step, from which
the invariants and the run lemmas follow without unfolding any meaning. -/

namespace Sys2Proof.Machine

/-- Everything feeding one byte can do. -/
inductive FeedEffect (b : Byte) (s : State) : State → Prop
  | voice (h : IsVoice b) : FeedEffect b s { s with
      cmd := hiNibble b, chan := loNibble b, d1 := 0, d2 := 0, d1v := s.d1vWritten 0, event := none, done := false }
  | sysCommon (h : IsSysCommon b) : FeedEffect b s { s with cmd := 0, event := none, done := false }
  | realTime (h : IsRealTime b) : FeedEffect b s { s with event := none, done := false }
  | idle (h : IsData b) (hc : s.cmd = 0) : FeedEffect b s { s with event := none, done := false }
  | single (h : IsData b) (hc : s.cmd = 0xC ∨ s.cmd = 0xD) : FeedEffect b s { s with
      d1 := 0, done := false, event := some (s.singleEvent (loSeven b)) }
  | first (h : IsData b) (h0 : s.cmd ≠ 0) (hC : s.cmd ≠ 0xC) (hD : s.cmd ≠ 0xD) (he : s.DataEmpty) :
      FeedEffect b s { s with d1 := loSeven b, d1v := s.d1vWritten 1, event := none, done := false }
  | second (h : IsData b) (h0 : s.cmd ≠ 0) (hC : s.cmd ≠ 0xC) (hD : s.cmd ≠ 0xD) (he : ¬s.DataEmpty) :
      FeedEffect b s { s with
        d1 := 0, d2 := 0, d1v := s.d1vWritten 0,
        event := some (s.pairEvent s.d1 (loSeven b)), done := decide (cmdClass s.cmd = .other) }

theorem exec_decodeVoice {k : Nibble} (n : Nibble) (s : State)
    (hk : k = 0x8 ∨ k = 0x9 ∨ k = 0xA ∨ k = 0xB ∨ k = 0xC ∨ k = 0xD ∨ k = 0xE) :
    exec (decodeVoice k n) s = .next (s.voiceStatus k n) := by
  rcases hk with rfl | rfl | rfl | rfl | rfl | rfl | rfl <;> rfl

theorem exec_decodeData_first (v : Data7) (s : State) (h0 : s.cmd ≠ 0) (hC : s.cmd ≠ 0xC) (hD : s.cmd ≠ 0xD)
    (he : s.DataEmpty) : exec (decodeData s.cmd v) s = .next (s.storeFirst v) := by
  have hb : s.d1Empty = true := s.d1Empty_iff.2 he
  simp only [decodeData, if_neg h0, if_neg hC, if_neg hD]
  split_ifs <;>
    simp only [exec, execDataNoteoff, execDataNoteon, execDataPolyat, execDataCc, execDataPitchbend, State.twoByte, hb,
      if_true]

theorem exec_decodeData_second (v : Data7) (s : State) (h0 : s.cmd ≠ 0) (hC : s.cmd ≠ 0xC) (hD : s.cmd ≠ 0xD)
    (he : ¬s.DataEmpty) : exec (decodeData s.cmd v) s = .next { s with
      d1 := 0, d2 := 0, d1v := s.d1vWritten 0,
      event := some (s.pairEvent s.d1 v), done := decide (cmdClass s.cmd = .other) } := by
  have hb : s.d1Empty = false := by simpa [← s.d1Empty_iff] using he
  simp only [decodeData, if_neg h0, if_neg hC, if_neg hD]
  split_ifs with h8 h9 hA hB <;>
    simp only [exec, execDataNoteoff, execDataNoteon, execDataPolyat, execDataCc, execDataPitchbend, State.twoByte, hb,
      if_false, Bool.false_eq_true, State.completeSecond_eq, State.setDone, State.pairEvent, commandOf_eq_append]
  · simp [h8, cmdClass]
  · by_cases hv : v = 0
    · simp [h9, hv, cmdClass]
    · simp only [if_neg hv, cmdClass, h9]; rfl
  · simp [hA, cmdClass]
  · simp [hB, cmdClass]
  · simp only [cmdClass, if_neg h0, if_neg h8, if_neg h9, if_neg hC, if_neg hD]; rfl

/-- The inversion lemma of the transaction-level step: it always answers a next state, and `FeedEffect` says which. -/
theorem feed_cases (b : Byte) (s : State) : ∃ t, feed b s = .next t ∧ FeedEffect b s t := by
  unfold feed
  rcases class_cases b with h | h | h | h
  · rw [decode_voice _ h, exec_decodeVoice _ _ h.hiNibble_mem, State.voiceStatus_eq]
    exact ⟨_, rfl, .voice h⟩
  · rw [decode_sysCommon _ h]
    exact ⟨_, rfl, .sysCommon h⟩
  · rw [decode_realTime _ h]
    exact ⟨_, rfl, .realTime h⟩
  · rw [decode_data _ h]
    by_cases h0 : s.cmd = 0
    · rw [h0]
      exact ⟨_, rfl, .idle h h0⟩
    · by_cases hC : s.cmd = 0xC
      · rw [hC]
        refine ⟨_, rfl, ?_⟩
        rw [State.oneByte_eq]
        exact .single h (.inl hC)
      · by_cases hD : s.cmd = 0xD
        · rw [hD]
          refine ⟨_, rfl, ?_⟩
          rw [State.oneByte_eq]
          exact .single h (.inr hD)
        · by_cases he : s.DataEmpty
          · rw [exec_decodeData_first _ _ h0 hC hD he, State.storeFirst_eq]
            exact ⟨_, rfl, .first h h0 hC hD he⟩
          · rw [exec_decodeData_second _ _ h0 hC hD he]
            exact ⟨_, rfl, .second h h0 hC hD he⟩

/-- A next state of `feed` is one `FeedEffect` allows. -/
theorem feed_effect {b : Byte} {s t : State} (h : feed b s = .next t) : FeedEffect b s t := by
  obtain ⟨u, hu, e⟩ := feed_cases b s
  rw [hu] at h
  cases h
  exact e

/-! ### `feed` on each class -/

theorem feed_voice {b : Byte} (s : State) (h : IsVoice b) : feed b s = .next { s with
    cmd := hiNibble b, chan := loNibble b, d1 := 0, d2 := 0, d1v := s.d1vWritten 0, event := none, done := false } := by
  rw [feed, decode_voice _ h, exec_decodeVoice _ _ h.hiNibble_mem, State.voiceStatus_eq]

theorem feed_sysCommon {b : Byte} (s : State) (h : IsSysCommon b) :
    feed b s = .next { s with cmd := 0, event := none, done := false } := by
  rw [feed, decode_sysCommon _ h]; rfl

theorem feed_realTime {b : Byte} (s : State) (h : IsRealTime b) :
    feed b s = .next { s with event := none, done := false } := by
  rw [feed, decode_realTime _ h]; rfl

theorem feed_idle {b : Byte} {s : State} (hc : s.cmd = 0) (h : ¬IsVoice b) :
    feed b s = .next { s with event := none, done := false } := by
  rcases class_cases b with g | g | g | g
  · exact absurd g h
  · rw [feed_sysCommon _ g, ← hc]
  · exact feed_realTime _ g
  · rw [feed, decode_data _ g, decodeData, if_pos hc]; rfl

theorem feed_single {b : Byte} {s : State} (h : IsData b) (hc : s.cmd = 0xC ∨ s.cmd = 0xD) :
    feed b s = .next { s with d1 := 0, done := false, event := some (s.singleEvent (loSeven b)) } := by
  rw [← State.oneByte_eq, feed, decode_data _ h]
  rcases hc with hc | hc <;> (rw [hc]; rfl)

theorem twoByteCmd_ne {k : Nibble} (h : twoByteCmd k = true) : k ≠ 0 ∧ k ≠ 0xC ∧ k ≠ 0xD := by
  revert h; revert k; decide

/-- The first-byte branch under every command that is not None, ProgramChange or ChannelPressure. -/
theorem feed_first_of {b : Byte} {s : State} (h : IsData b) (h0 : s.cmd ≠ 0) (hC : s.cmd ≠ 0xC) (hD : s.cmd ≠ 0xD)
    (he : s.DataEmpty) :
    feed b s = .next { s with d1 := loSeven b, d1v := s.d1vWritten 1, event := none, done := false } := by
  rw [feed, decode_data _ h, exec_decodeData_first _ _ h0 hC hD he, State.storeFirst_eq]

/-- The second-byte branch under every command that is not None, ProgramChange or ChannelPressure. -/
theorem feed_second_of {b : Byte} {s : State} (h : IsData b) (h0 : s.cmd ≠ 0) (hC : s.cmd ≠ 0xC) (hD : s.cmd ≠ 0xD)
    (he : ¬s.DataEmpty) :
    feed b s = .next { s with
      d1 := 0, d2 := 0, d1v := s.d1vWritten 0,
      event := some (s.pairEvent s.d1 (loSeven b)), done := decide (cmdClass s.cmd = .other) } := by
  rw [feed, decode_data _ h, exec_decodeData_second _ _ h0 hC hD he]

theorem feed_first {b : Byte} {s : State} (h : IsData b) (hc : twoByteCmd s.cmd = true) (he : s.DataEmpty) :
    feed b s = .next { s with d1 := loSeven b, d1v := s.d1vWritten 1, event := none, done := false } :=
  feed_first_of h (twoByteCmd_ne hc).1 (twoByteCmd_ne hc).2.1 (twoByteCmd_ne hc).2.2 he

theorem feed_second {b : Byte} {s : State} (h : IsData b) (hc : twoByteCmd s.cmd = true) (he : ¬s.DataEmpty) :
    feed b s = .next { s with
      d1 := 0, d2 := 0, d1v := s.d1vWritten 0,
      event := some (s.pairEvent s.d1 (loSeven b)), done := decide (cmdClass s.cmd = .other) } :=
  feed_second_of h (twoByteCmd_ne hc).1 (twoByteCmd_ne hc).2.1 (twoByteCmd_ne hc).2.2 he

end Sys2Proof.Machine
end

