-- ==== Sys2Proof/Laws/PerInstr.lean ====
section
/-! SUPPORT. Statements made instruction by instruction. Family TableRow: the byte of an instruction that stands under
its `CMD` is covered by the instruction's own row of spec/opcode_table.json. -/

namespace Sys2Proof.Laws.TableRow

/-- The row of an instruction covers its encoding. -/
def Statement (i : Instr) : Prop :=
  ∀ cmd : Nibble, i.wf cmd = true → opcodeTable[i.rowIndex].covers cmd (encode i) = true

theorem vsNoteoff (n : Nibble) : Statement (.vsNoteoff n) := fun cmd => by revert cmd n; decide

theorem vsNoteon (n : Nibble) : Statement (.vsNoteon n) := fun cmd => by revert cmd n; decide

theorem vsPolyat (n : Nibble) : Statement (.vsPolyat n) := fun cmd => by revert cmd n; decide

theorem vsCc (n : Nibble) : Statement (.vsCc n) := fun cmd => by revert cmd n; decide

theorem vsProgchg (n : Nibble) : Statement (.vsProgchg n) := fun cmd => by revert cmd n; decide

theorem vsChanpress (n : Nibble) : Statement (.vsChanpress n) := fun cmd => by revert cmd n; decide

theorem vsPitchbend (n : Nibble) : Statement (.vsPitchbend n) := fun cmd => by revert cmd n; decide

theorem sysCommon (x : Bits3) : Statement (.sysCommon x) := fun cmd => by revert cmd x; decide

theorem sysRealtime (x : Bits3) : Statement (.sysRealtime x) := fun cmd => by revert cmd x; decide

theorem dataIdle (v : Data7) : Statement (.dataIdle v) := fun cmd => by revert cmd v; decide

theorem dataNoteoff (v : Data7) : Statement (.dataNoteoff v) := fun cmd => by revert cmd v; decide

theorem dataNoteon (v : Data7) : Statement (.dataNoteon v) := fun cmd => by revert cmd v; decide

theorem dataProgchg (v : Data7) : Statement (.dataProgchg v) := fun cmd => by revert cmd v; decide

theorem dataChanpress (v : Data7) : Statement (.dataChanpress v) := fun cmd => by revert cmd v; decide

theorem dataPolyat (v : Data7) : Statement (.dataPolyat v) := fun cmd => by revert cmd v; decide

theorem dataCc (v : Data7) : Statement (.dataCc v) := fun cmd => by revert cmd v; decide

theorem dataPitchbend (v : Data7) : Statement (.dataPitchbend v) := fun cmd => by revert cmd v; decide

end Sys2Proof.Laws.TableRow
end

