-- ==== Sys2Proof/Laws/Step.lean ====
section
/-! SUPPORT. The clocked step by the edge it performs, and the run lemmas. -/

namespace Sys2Proof.Machine

theorem step_eq (s : State) : step s = clockEdge s.nextEdge s.advance := rfl

theorem clockEdge_reset {e : Edge} (s : State) (h : e.rst = true) : clockEdge e s = .next s.applyReset := if_pos h

theorem clockEdge_byte {e : Edge} (s : State) (h : e.rst = false) (hv : e.inValid = true) :
    clockEdge e s = feed e.inByte s := by
  simp [clockEdge, h, hv]

theorem clockEdge_quiet {e : Edge} (s : State) (h : e.rst = false) (hv : e.inValid = false) :
    clockEdge e s = .next s.clearOutputs := by
  simp [clockEdge, h, hv]

/-- The inversion lemma of a clock edge: it answers a next state, by a reset, a byte or neither. -/
theorem clockEdge_cases (e : Edge) (s : State) : ∃ t, clockEdge e s = .next t ∧
    ((e.rst = true ∧ t = s.applyReset) ∨ (e.rst = false ∧ e.inValid = true ∧ FeedEffect e.inByte s t) ∨
      (e.rst = false ∧ e.inValid = false ∧ t = s.clearOutputs)) := by
  cases h : e.rst
  · cases hv : e.inValid
    · exact ⟨_, clockEdge_quiet s h hv, .inr (.inr ⟨rfl, rfl, rfl⟩)⟩
    · obtain ⟨t, ht, he⟩ := feed_cases e.inByte s
      exact ⟨t, by rw [clockEdge_byte s h hv, ht], .inr (.inl ⟨rfl, rfl, he⟩)⟩
  · exact ⟨_, clockEdge_reset s h, .inl ⟨rfl, rfl⟩⟩

/-- The word's instruction, read under `s.cmd`, is what the next step runs. -/
theorem step_withFetchWord (s : State) (w : Nat) :
    step (s.withFetchWord 8 w) = exec (decode s.cmd (BitVec.ofNat 8 w)) s := rfl

/-! ### Runs -/

@[simp] theorem runBytes_nil (s : State) : runBytes [] s = .next ([], s) := rfl

theorem runBytes_cons {b : Byte} {bs : List Byte} {s t u : State} {os : List Obs} (h : feed b s = .next t)
    (hr : runBytes bs t = .next (os, u)) : runBytes (b :: bs) s = .next (t.obs :: os, u) := by
  simp only [runBytes, h, hr]

theorem runSteps_cons {k : Nat} {s t u : State} {os : List Obs} (h : step s = .next t)
    (hr : runSteps k t = .next (os, u)) : runSteps (k + 1) s = .next (t.obs :: os, u) := by
  simp only [runSteps, h, hr]

/-- A run of bytes always completes, with one observation a byte. -/
theorem runBytes_total (bs : List Byte) (s : State) :
    ∃ os t, runBytes bs s = .next (os, t) ∧ os.length = bs.length := by
  induction bs generalizing s with
  | nil => exact ⟨[], s, rfl, rfl⟩
  | cons b bs ih =>
    obtain ⟨t, ht, -⟩ := feed_cases b s
    obtain ⟨os, u, hu, hl⟩ := ih t
    exact ⟨_, u, runBytes_cons ht hu, by simp [hl]⟩

/-- A run of a concatenation is one run after the other. -/
theorem runBytes_append {as bs : List Byte} {s u w : State} {os ps : List Obs} (h : runBytes as s = .next (os, u))
    (hr : runBytes bs u = .next (ps, w)) : runBytes (as ++ bs) s = .next (os ++ ps, w) := by
  induction as generalizing s os with
  | nil => cases h; simpa using hr
  | cons a as ih =>
    obtain ⟨t, ht, -⟩ := feed_cases a s
    obtain ⟨os', u', hu, -⟩ := runBytes_total as t
    rw [runBytes_cons ht hu] at h
    cases h
    exact runBytes_cons ht (ih hu)

end Sys2Proof.Machine
end

