-- ==== Sys2Proof/Tests/Slice0.lean ====
section
/-! SUPPORT. Small tests of the model, each against spec/95_test_vectors.md (the vector's id is in the comment) or
a word written out from the opcode table; the WellFormed smoke tests; and a witness for the hypotheses of
every statement that has some. -/

namespace Sys2Proof.Tests

open Sys2Proof.Machine

/-- A FAITHFUL state written as the spec writes it, `(CMD, CHAN, D1, D2)`. -/
def stF (cmd chan : Nibble) (d1 d2 : Data7) : State := { State.reset with cmd := cmd, chan := chan, d1 := d1, d2 := d2 }

/-- An EXPLICIT state `(CMD, CHAN, D1, D2, D1V)`. -/
def stE (cmd chan : Nibble) (d1 d2 : Data7) (d1v : BitVec 1) : State :=
  { State.resetOf { Config.default with emptyMode := .explicit } with cmd := cmd, chan := chan, d1 := d1, d2 := d2, d1v := d1v }

/-- A state with the outputs of its last step. -/
def out (s : State) (e : Option Event) (done : Bool) : State := { s with event := e, done := done }

/-- Does an outcome answer exactly this state? -/
def gives (o : Host.Outcome State Fault Refusal) (t : State) : Bool :=
  match o with
  | .next s => decide (s = t)
  | .fault _ => false
  | .refused _ => false

/-! ### WellFormed: an ill-formed term for each state condition -/

theorem test_wf_dataIdle_needs_idle : (Instr.dataIdle 5).wf 0x9 = false := by decide
theorem test_wf_dataNoteoff_needs_8 : (Instr.dataNoteoff 5).wf 0x9 = false := by decide
theorem test_wf_dataNoteon_needs_9 : (Instr.dataNoteon 5).wf 0x8 = false := by decide
theorem test_wf_dataProgchg_needs_C : (Instr.dataProgchg 5).wf 0xD = false := by decide
theorem test_wf_dataChanpress_needs_D : (Instr.dataChanpress 5).wf 0xC = false := by decide
theorem test_wf_dataPolyat_needs_A : (Instr.dataPolyat 5).wf 0xB = false := by decide
theorem test_wf_dataCc_needs_B : (Instr.dataCc 5).wf 0xE = false := by decide
theorem test_wf_dataPitchbend_needs_E : (Instr.dataPitchbend 5).wf 0x0 = false := by decide
theorem test_wf_status_needs_nothing : (Instr.vsNoteon 15).wf 0x3 = true := by decide
theorem test_config_wf_refuses_wide_port : Config.wf ⟨.faithful, 4, some 16, 0⟩ = false := by decide
theorem test_config_wf_refuses_no_port_bits : Config.wf ⟨.faithful, 0, none, 0⟩ = false := by decide
theorem test_shorthand_wf_refuses_channel_17 : (Shorthand.noteOn 17 0 0).wf = false := by decide

/-! ### Decoding: a word of each row, bit by bit from the table's `encoding` -/

theorem test_decode_vsNoteoff : decode 0x0 0b10000011 = .vsNoteoff 3 := by decide
theorem test_decode_vsNoteon : decode 0xC 0b10011111 = .vsNoteon 15 := by decide
theorem test_decode_vsPolyat : decode 0x0 0b10100101 = .vsPolyat 5 := by decide
theorem test_decode_vsCc : decode 0x9 0b10110000 = .vsCc 0 := by decide
theorem test_decode_vsProgchg : decode 0xB 0b11000011 = .vsProgchg 3 := by decide
theorem test_decode_vsChanpress : decode 0x0 0b11010001 = .vsChanpress 1 := by decide
theorem test_decode_vsPitchbend : decode 0x0 0b11101111 = .vsPitchbend 15 := by decide
theorem test_decode_sysCommon : decode 0x9 0b11110111 = .sysCommon 7 := by decide
theorem test_decode_sysRealtime : decode 0x9 0b11111000 = .sysRealtime 0 := by decide
theorem test_decode_dataIdle : decode 0x0 0b01000000 = .dataIdle 64 := by decide
theorem test_decode_dataNoteoff : decode 0x8 0b00111100 = .dataNoteoff 60 := by decide
theorem test_decode_dataNoteon : decode 0x9 0b01111111 = .dataNoteon 127 := by decide
theorem test_decode_dataProgchg : decode 0xC 0b00000101 = .dataProgchg 5 := by decide
theorem test_decode_dataChanpress : decode 0xD 0b01000000 = .dataChanpress 64 := by decide
theorem test_decode_dataPolyat : decode 0xA 0b00111100 = .dataPolyat 60 := by decide
theorem test_decode_dataCc : decode 0xB 0b00000111 = .dataCc 7 := by decide
theorem test_decode_dataPitchbend : decode 0xE 0b00000000 = .dataPitchbend 0 := by decide
theorem test_decode_no_byte : decodeBytes 0x9 [] = .rejected .noByte := by decide
theorem test_decode_keeps_rest : decodeBytes 0x0 [0x90, 60, 64] = .instr (.vsNoteon 0) [60, 64] := by decide
theorem test_tableWord_byte : decodeTableWord 8 0xF6 = some (.sysCommon 6) := by decide
theorem test_tableWord_not_a_byte : decodeTableWord 16 0x90 = none := by decide
theorem test_fetchWord_runs : gives (step (State.reset.withFetchWord 8 0x91)) (stF 0x9 1 0 0) = true := by decide

/-! ### Status bytes -/

/-- V2. -/
theorem test_vsNoteoff_channel16 : gives (feed 0x8F State.reset) (stF 0x8 0xF 0 0) = true := by decide
/-- V4: the pending note is dropped. -/
theorem test_vsNoteon_drops_pending : gives (feed 0x9F (stF 0x9 0 60 0)) (stF 0x9 0xF 0 0) = true := by decide
/-- V10: `D1V` is cleared. -/
theorem test_vsNoteon_clears_d1v : gives (feed 0x90 (stE 0x9 0 60 0 1)) (stE 0x9 0 0 0 0) = true := by decide
/-- V5. -/
theorem test_vsPolyat : gives (feed 0xA5 State.reset) (stF 0xA 5 0 0) = true := by decide
/-- The corner values of L1.1. -/
theorem test_vsCc_channel16 : gives (feed 0xBF State.reset) (stF 0xB 0xF 0 0) = true := by decide
/-- V6. -/
theorem test_vsProgchg : gives (feed 0xC3 (stF 0xB 2 7 0)) (stF 0xC 3 0 0) = true := by decide
/-- V7. -/
theorem test_vsChanpress : gives (feed 0xD1 State.reset) (stF 0xD 1 0 0) = true := by decide
/-- V8. -/
theorem test_vsPitchbend : gives (feed 0xEF State.reset) (stF 0xE 0xF 0 0) = true := by decide
/-- S1: `D1` stays stale. -/
theorem test_sysCommon_keeps_d1 : gives (feed 0xF1 (stF 0x9 0 60 0)) (stF 0x0 0 60 0) = true := by decide
/-- S4. -/
theorem test_sysCommon_explicit : gives (feed 0xF6 (stE 0xB 3 7 0 1)) (stE 0x0 3 7 0 1) = true := by decide
/-- S6: 0xFF does not reset. -/
theorem test_sysRealtime_no_reset : gives (feed 0xFF (stF 0xE 1 64 0)) (stF 0xE 1 64 0) = true := by decide
/-- D3: the outputs of the step before do not stand. -/
theorem test_sysRealtime_clears_outputs :
    gives (feed 0xF8 (out (stF 0xB 0 0 0) (some ⟨.thru, 1, 0xB0, 7, some 100, none⟩) true)) (stF 0xB 0 0 0) = true := by decide

/-! ### Data bytes -/

/-- I3. -/
theorem test_dataIdle : gives (feed 127 (stF 0x0 2 60 0)) (stF 0x0 2 60 0) = true := by decide
/-- NF7. -/
theorem test_dataNoteoff : gives (feed 127 (stF 0x8 5 127 0))
    (out (stF 0x8 5 0 0) (some ⟨.noteOff, 6, 0x80, 127, some 127, none⟩) false) = true := by decide
/-- NF6: note 0 in EXPLICIT mode. -/
theorem test_dataNoteoff_note0 : gives (feed 64 (stE 0x8 0 0 0 1))
    (out (stE 0x8 0 0 0 0) (some ⟨.noteOff, 1, 0x80, 0, some 64, none⟩) false) = true := by decide
/-- NN3: velocity zero. -/
theorem test_dataNoteon_velocity0 : gives (feed 0 (stF 0x9 0 60 0))
    (out (stF 0x9 0 0 0) (some ⟨.noteOff, 1, 0x90, 60, some 0, none⟩) false) = true := by decide
/-- NN6. -/
theorem test_dataNoteon : gives (feed 127 (stF 0x9 0xF 1 0))
    (out (stF 0x9 0xF 0 0) (some ⟨.noteOn, 16, 0x90, 1, some 127, none⟩) false) = true := by decide
/-- PC2: no empty test. -/
theorem test_dataProgchg_zero : gives (feed 0 (stF 0xC 0 0 0))
    (out (stF 0xC 0 0 0) (some ⟨.thru, 1, 0xC0, 0, none, none⟩) false) = true := by decide
/-- CP1. -/
theorem test_dataChanpress : gives (feed 64 (stE 0xD 1 0 0 0))
    (out (stE 0xD 1 0 0 0) (some ⟨.thru, 2, 0xD0, 64, none, none⟩) false) = true := by decide
/-- G5. -/
theorem test_dataPolyat : gives (feed 0 (stF 0xA 3 60 0))
    (out (stF 0xA 3 0 0) (some ⟨.thru, 4, 0xA0, 60, some 0, none⟩) true) = true := by decide
/-- G3: controller 0 is absorbed. -/
theorem test_dataCc_zero_absorbed : gives (feed 0 (stF 0xB 0 0 0)) (stF 0xB 0 0 0) = true := by decide
/-- G2. -/
theorem test_dataCc : gives (feed 100 (stF 0xB 0 7 0))
    (out (stF 0xB 0 0 0) (some ⟨.thru, 1, 0xB0, 7, some 100, none⟩) true) = true := by decide
/-- G6: a zero first byte is stored in EXPLICIT mode. -/
theorem test_dataPitchbend_first_zero : gives (feed 0 (stE 0xE 0 0 0 0)) (stE 0xE 0 0 0 1) = true := by decide
/-- G7. -/
theorem test_dataPitchbend : gives (feed 64 (stE 0xE 0 0 0 1))
    (out (stE 0xE 0 0 0 0) (some ⟨.thru, 1, 0xE0, 0, some 64, none⟩) true) = true := by decide

/-! ### Reset, pins, sink -/

/-- RS2: reset wins over the byte at the same edge. -/
theorem test_reset_wins : gives (clockEdge ⟨true, true, 100⟩ (stE 0xB 3 7 0 1)) (stE 0x0 0 0 0 0) = true := by decide
/-- R81: no byte, no step. -/
theorem test_quiet_edge : gives (step (stF 0x9 1 60 0)) (stF 0x9 1 60 0) = true := by decide
/-- R80, R82, R84 on the event of NN6, with a port identifier (R85). -/
theorem test_pins_noteOn :
    (out (stF 0x9 0xF 0 0) (some ⟨.noteOn, 16, 0x90, 1, some 127, some 3⟩) false).pins =
      ⟨true, 0b01, 0xF, 0x90, 1, 127, true, 3, true, false⟩ := by decide
/-- R84: a one-byte Thru has `ev_d2_valid = 0` and `ev_d2 = 0`. -/
theorem test_pins_oneByteThru :
    (out (stF 0xC 0 0 0) (some ⟨.thru, 1, 0xC0, 5, none, none⟩) false).pins =
      ⟨true, 0b11, 0, 0xC0, 5, 0, false, 0, false, false⟩ := by decide
/-- R156, R157. -/
theorem test_sink_trace_when_empty :
    Sink.deliver ⟨some 1, none, some 2⟩ ⟨.noteOff, 1, 0x90, 60, some 0, none⟩ = .trace .noteOff 1 60 (some 0) := by decide
/-- R89. -/
theorem test_shorthand_bend : (Shorthand.bend 2 0x00 0x40).bytes = [0xE1, 0x00, 0x40] := by decide

/-! ### Witnesses: for each statement with hypotheses, states and operands that meet them -/

theorem witness_DecodeEncodeRoundTrip : (Instr.dataNoteon 127).wf 0x9 = true ∧ (Instr.dataIdle 0).wf 0x0 = true := by decide
theorem witness_DecodeReadsTheOneInstructionOfAByte : legalCmd 0x0 = true ∧ legalCmd 0xE = true := by decide
theorem witness_DecodeSelectsTheOneCoveringTableRow :
    legalCmd 0xE = true ∧ decode 0xE 0x7F = .dataPitchbend 127 ∧ opcodeTable[(16 : Fin 17)].covers 0xE 0x7F = true ∧
      legalCmd 0x0 = true ∧ decode 0x0 0x80 = .vsNoteoff 0 ∧ opcodeTable[(0 : Fin 17)].covers 0x0 0x80 = true := by decide
theorem witness_data_bytes : IsData 0x00 ∧ IsData 0x7F := by unfold IsData; decide
theorem witness_voice_bytes : IsVoice 0x80 ∧ IsVoice 0xEF := by unfold IsVoice; decide
theorem witness_sysCommon_bytes : IsSysCommon 0xF0 ∧ IsSysCommon 0xF7 := by unfold IsSysCommon; decide
theorem witness_realTime_bytes : IsRealTime 0xF8 ∧ IsRealTime 0xFF := by unfold IsRealTime; decide
/-- DataByteDispatchFollowsCmd, and the `CMD` clauses of the data statements: a state for each clause. -/
theorem witness_cmd_clauses :
    (stF 0x0 0 0 0).cmd = 0x0 ∧ (stF 0x8 0 0 0).cmd = 0x8 ∧ (stF 0x9 0 0 0).cmd = 0x9 ∧ (stF 0xA 0 0 0).cmd = 0xA ∧
    (stF 0xB 0 0 0).cmd = 0xB ∧ (stF 0xC 0 0 0).cmd = 0xC ∧ (stF 0xD 0 0 0).cmd = 0xD ∧ (stF 0xE 0 0 0).cmd = 0xE := by decide
theorem witness_UnreachableCommandsRunTheGenericRule :
    IsData 0x7F ∧ legalCmd (stF 0x1 0 0 0).cmd = false ∧ legalCmd (stF 0xF 0 1 0).cmd = false ∧
      (stF 0x1 0 0 0).DataEmpty ∧ ¬(stF 0xF 0 1 0).DataEmpty := by unfold IsData State.DataEmpty; decide
theorem witness_ShorthandsExpandToTheirMessages : (1 ≤ 1 ∧ 1 ≤ 16) ∧ (1 ≤ 16 ∧ 16 ≤ 16) := by decide
theorem witness_VoiceStatusRowsComplete :
    (.vsNoteoff, 0x8, .dataNoteoff) ∈ voiceRows ∧ (.vsPitchbend, 0xE, .dataPitchbend) ∈ voiceRows := by simp [voiceRows]
/-- NoteOffDataBytes, GenericTwoByteMessages: data1 empty and set, in both modes, note 0 stored among them. -/
theorem witness_dataEmpty_clauses :
    (stF 0x8 0 0 0).DataEmpty ∧ ¬(stF 0x8 0 1 0).DataEmpty ∧ (stE 0xB 0 0 0 0).DataEmpty ∧ ¬(stE 0xB 0 0 0 1).DataEmpty := by
  unfold State.DataEmpty; decide
/-- NoteOnDataBytes: its two second-byte clauses. -/
theorem witness_NoteOnDataBytes :
    ¬(stF 0x9 0 127 0).DataEmpty ∧ (0 : Data7) = 0 ∧ (1 : Data7) ≠ 0 := by unfold State.DataEmpty; decide
theorem witness_OneByteMessagesEmitAtOnce :
    (Instr.dataProgchg 0 = .dataProgchg 0 ∨ Instr.dataProgchg 0 = .dataChanpress 0) ∧
    (Instr.dataChanpress 127 = .dataProgchg 127 ∨ Instr.dataChanpress 127 = .dataChanpress 127) := by decide
theorem witness_GenericTwoByteMessages :
    (Instr.dataPolyat 0 = .dataPolyat 0 ∨ Instr.dataPolyat 0 = .dataCc 0 ∨ Instr.dataPolyat 0 = .dataPitchbend 0) ∧
    (Instr.dataCc 0 = .dataPolyat 0 ∨ Instr.dataCc 0 = .dataCc 0 ∨ Instr.dataCc 0 = .dataPitchbend 0) ∧
    (Instr.dataPitchbend 127 = .dataPolyat 127 ∨ Instr.dataPitchbend 127 = .dataCc 127 ∨
      Instr.dataPitchbend 127 = .dataPitchbend 127) := by decide
theorem witness_modes : (stF 0 0 0 0).cfg.emptyMode = .faithful ∧ (stE 0 0 0 0 0).cfg.emptyMode = .explicit := by decide
theorem witness_FaithfulModeAbsorbsZeroFirstByte :
    (stF 0xE 0 0 0).cfg.emptyMode = .faithful ∧ twoByteCmd (stF 0xE 0 0 0).cmd = true ∧ (stF 0xE 0 0 0).d1 = 0 := by decide
/-- The clauses of EventFieldsComeFromRegisters, DoneExactlyOnGenericCompletion and StateMachineTable. -/
theorem witness_event_clauses :
    ¬IsData 0x80 ∧ IsData 0x7F ∧ twoByteCmd 0x8 = true ∧ twoByteCmd 0xE = true ∧ cmdClass 0xA = .other ∧
      (stF 0x0 0 5 0).idle = true ∧ (stF 0x9 0 5 0).running = true ∧ ¬IsVoice 0xF0 := by
  unfold IsData IsVoice; decide
/-- EmittedEventsTakeReachableValues, StepKeepsInvariant: a state in the middle of a message that meets the invariant. -/
theorem witness_Inv : (stE 0x9 0 0 0 1).Inv :=
  ⟨by decide, by decide, by decide, by decide, by decide, by decide⟩
/-- EmittedEventsTakeReachableValues: a step from such a state that emits. -/
theorem witness_step_emits : gives (step { stE 0x9 0 0 0 1 with input := [Edge.byte 1] })
    (out (stE 0x9 0 0 0 0) (some ⟨.noteOn, 1, 0x90, 0, some 1, none⟩) false) = true := by decide
/-- EventPinsCarryTheEvent: an event with and without a second datum, and with a port identifier. -/
theorem witness_EventPinsCarryTheEvent :
    gives (feed 64 { stF 0xC 0 0 0 with cfg := ⟨.faithful, 4, some 15, 0⟩ })
      (out { stF 0xC 0 0 0 with cfg := ⟨.faithful, 4, some 15, 0⟩ } (some ⟨.thru, 1, 0xC0, 64, none, some 15⟩) false) = true ∧
    gives (feed 64 (stF 0xB 0 7 0)) (out (stF 0xB 0 0 0) (some ⟨.thru, 1, 0xB0, 7, some 64, none⟩) true) = true := by decide
theorem witness_EventPinsShowValidity :
    (out (stF 0xC 0 0 0) (some ⟨.thru, 1, 0xC0, 5, none, none⟩) false).pins.evValid = true ∧ (stF 0 0 0 0).pins.evValid = false := by
  decide
theorem witness_SinkDeliversBySlot : EventKind.noteOn ≠ EventKind.thru := by decide
theorem witness_StepRunsTheDecodedByte :
    ({ State.reset with input := [Edge.byte 0x90, Edge.quiet] } : State).input = Edge.byte 0x90 :: [Edge.quiet] ∧
      (Edge.byte 0x90).rst = false ∧ (Edge.byte 0x90).inValid = true := by decide
theorem witness_ResetEdgeWinsOverAByte :
    ({ stF 0x9 1 60 0 with input := [⟨true, true, 100⟩] } : State).input = ⟨true, true, 100⟩ :: [] ∧
      (⟨true, true, 100⟩ : Edge).rst = true := by decide
theorem witness_EdgeWithoutByteHoldsRegisters (e : Edge) (rest : List Edge)
    (h : ({ stF 0x9 1 60 0 with input := [Edge.quiet] } : State).input = e :: rest) : e.rst = false ∧ e.inValid = false := by
  cases h; decide
theorem witness_OutputsDoNotFeedBack :
    (stF 0x9 1 60 0).SameRegs (out (stF 0x9 1 60 0) (some ⟨.noteOn, 1, 0x90, 1, some 1, none⟩) true) ∧
      (stF 0x9 1 60 0).input = (out (stF 0x9 1 60 0) (some ⟨.noteOn, 1, 0x90, 1, some 1, none⟩) true).input := by
  unfold State.SameRegs; decide
theorem witness_config_wf : Config.wf ⟨.explicit, 4, some 15, 0xF⟩ = true ∧ Config.wf Config.default = true := by decide
/-- StaleDataNeverReachesAnEvent: two Idle states that differ in every other register. -/
theorem witness_StaleDataNeverReachesAnEvent :
    (stE 0 0 0 0 0).cfg = (stE 0 5 60 0 1).cfg ∧ (stE 0 0 0 0 0).cmd = 0 ∧ (stE 0 5 60 0 1).cmd = 0 := by decide
/-- VoiceStatusResynchronises: two states in the middle of different messages. -/
theorem witness_VoiceStatusResynchronises : (stF 0x9 0 60 0).cfg = (stF 0xB 3 7 0).cfg ∧ IsVoice 0x80 := by
  unfold IsVoice; decide
theorem witness_SystemCommonEndsRunningStatus :
    IsSysCommon 0xF0 ∧ ∀ x ∈ ([0x7E, 0x7F, 0xF8, 0xF7, 50] : List Byte), ¬IsVoice x := by
  unfold IsSysCommon IsVoice; decide
/-- RunningStatusPairsDataBytes, in EXPLICIT mode with a zero first byte and in FAITHFUL mode without. -/
theorem witness_RunningStatusPairsDataBytes :
    (twoByteCmd (stE 0x9 0 0 0 0).cmd = true ∧ (stE 0x9 0 0 0 0).DataEmpty ∧ (stE 0x9 0 0 0 0).cfg.emptyMode ≠ .faithful) ∧
    (twoByteCmd (stF 0xE 0 0 0).cmd = true ∧ (stF 0xE 0 0 0).DataEmpty ∧
      ∀ p ∈ ([(60, 64), (61, 0)] : List (Data7 × Data7)), p.1 ≠ 0) := by
  unfold State.DataEmpty
  exact ⟨by decide, by decide, by decide, by simp⟩
theorem witness_OneByteRunningStatusRepeats :
    (stF 0xC 0 0 0).cmd = 0xC ∨ (stF 0xC 0 0 0).cmd = 0xD := by decide
theorem witness_MessageLengthsByCommand :
    (legalCmd 0x8 = true ∧ (0x8 : Nibble) ≠ 0 ∧ (cmdClass 0x8).dataBytes = 2 ∧ (127 : Data7) ≠ 0) ∧
    (legalCmd 0xD = true ∧ (0xD : Nibble) ≠ 0 ∧ (cmdClass 0xD).dataBytes = 1) := by decide
theorem witness_ClockedRunRefinesByteRun :
    ∀ e ∈ ([Edge.byte 0x90, Edge.quiet, Edge.byte 60, Edge.byte 64] : List Edge), e.rst = false := by decide
theorem witness_EmptyModesAgreeWithoutZeroBytes : ∀ b ∈ ([0x90, 60, 64, 0xC0, 1] : List Byte), b ≠ 0 := by decide
theorem witness_InstancesAreIndependent : ([State.reset, stF 0x9 1 60 0] : Bank)[1]? = some (stF 0x9 1 60 0) := by decide

end Sys2Proof.Tests
end

section
/-! The family 30_encoding.md: which table rows the decoder answers on each class of byte (R70), the stream shorthands
(R89), and the event pins (R83–R85, R87). -/

namespace Sys2Proof.Machine

/-! ### The rows a byte class decodes to -/

theorem rowIndex_decodeVoice_le (k n : Nibble) : (decodeVoice k n).rowIndex.val ≤ 6 := by
  unfold decodeVoice
  split_ifs <;> simp [Instr.rowIndex]

theorem le_rowIndex_decodeData (cmd : Nibble) (v : Data7) : 9 ≤ (decodeData cmd v).rowIndex.val := by
  unfold decodeData
  split_ifs <;> simp [Instr.rowIndex]

/-- A byte's class together with the rows of that class, among which its decoded row lies. -/
theorem class_rowIndex_cases (cmd : Nibble) (b : Byte) :
    (IsVoice b ∧ (decode cmd b).rowIndex.val ≤ 6) ∨ (IsSysCommon b ∧ (decode cmd b).rowIndex.val = 7) ∨
    (IsRealTime b ∧ (decode cmd b).rowIndex.val = 8) ∨ (IsData b ∧ 9 ≤ (decode cmd b).rowIndex.val) := by
  rcases class_cases b with h | h | h | h
  · exact .inl ⟨h, decode_voice cmd h ▸ rowIndex_decodeVoice_le _ _⟩
  · exact .inr (.inl ⟨h, decode_sysCommon cmd h ▸ rfl⟩)
  · exact .inr (.inr (.inl ⟨h, decode_realTime cmd h ▸ rfl⟩))
  · exact .inr (.inr (.inr ⟨h, decode_data cmd h ▸ le_rowIndex_decodeData _ _⟩))

/-- The decoded row tells the class: the classes exclude each other, and so do their ranges of rows. -/
theorem class_iff_rowIndex (cmd : Nibble) (b : Byte) :
    (IsVoice b ↔ (decode cmd b).rowIndex.val ≤ 6) ∧ (IsSysCommon b ↔ (decode cmd b).rowIndex.val = 7) ∧
    (IsRealTime b ↔ (decode cmd b).rowIndex.val = 8) ∧ (IsData b ↔ 9 ≤ (decode cmd b).rowIndex.val) := by
  rcases class_rowIndex_cases cmd b with ⟨h, hr⟩ | ⟨h, hr⟩ | ⟨h, hr⟩ | ⟨h, hr⟩
  · exact ⟨iff_of_true h hr, iff_of_false h.not_sysCommon (by omega), iff_of_false h.not_realTime (by omega),
      iff_of_false h.not_data (by omega)⟩
  · exact ⟨iff_of_false (fun g => g.not_sysCommon h) (by omega), iff_of_true h hr,
      iff_of_false h.not_realTime (by omega), iff_of_false h.not_data (by omega)⟩
  · exact ⟨iff_of_false (fun g => g.not_realTime h) (by omega), iff_of_false (fun g => g.not_realTime h) (by omega),
      iff_of_true h hr, iff_of_false h.not_data (by omega)⟩
  · exact ⟨iff_of_false (fun g => g.not_data h) (by omega), iff_of_false (fun g => g.not_data h) (by omega),
      iff_of_false (fun g => g.not_data h) (by omega), iff_of_true h hr⟩

/-- Settles O3: the bit tests and the exclusions are the decoder's laws, and the decoded row tells the class. -/
theorem byteClassesPartitionAllBytes : Obligations.ByteClassesPartitionAllBytes := by
  intro cmd b
  exact ⟨isVoice_iff b, isSysCommon_iff b, isRealTime_iff b, isData_iff b, class_cases b,
    fun h => h.1.not_sysCommon h.2, fun h => h.1.not_realTime h.2, fun h => h.1.not_data h.2,
    fun h => h.1.not_realTime h.2, fun h => h.1.not_data h.2, fun h => h.1.not_data h.2,
    class_iff_rowIndex cmd b⟩

/-! ### The status bytes of the stream shorthands -/

/-- Adding a channel nibble to a base with low nibble 0 does not carry into the command nibble (R71). -/
theorem append_zero_add_ofNat (k : Nibble) {m : Nat} (hm : m < 16) :
    (k ++ 0#4) + BitVec.ofNat 8 m = k ++ BitVec.ofNat 4 m := by
  have h : ∀ (k : Nibble) (m : Fin 16), (k ++ 0#4) + BitVec.ofNat 8 m = k ++ BitVec.ofNat 4 m := by decide
  exact h k ⟨m, hm⟩

theorem statusByte_eq_append (k : Nibble) {ch : Nat} (h16 : ch ≤ 16) :
    statusByte (k ++ 0#4) ch = k ++ BitVec.ofNat 4 (ch - 1) :=
  append_zero_add_ofNat k (by omega)

/-- A byte made of a voice command nibble and a channel nibble decodes to that command's row (R71, R72). -/
theorem decode_append (cmd n : Nibble) {k : Nibble} (hk : legalCmd k = true) (h0 : k ≠ 0) :
    decode cmd (k ++ n) = decodeVoice k n := by
  rw [decode_voice cmd (isVoice_append n hk h0), hiNibble_append, loNibble_append]

theorem decode_statusByte (cmd : Nibble) {k : Nibble} {ch : Nat} (h16 : ch ≤ 16) (hk : legalCmd k = true)
    (h0 : k ≠ 0) : decode cmd (statusByte (k ++ 0#4) ch) = decodeVoice k (BitVec.ofNat 4 (ch - 1)) := by
  rw [statusByte_eq_append k h16, decode_append cmd _ hk h0]

theorem wf_sys_iff (x : Byte) : (Shorthand.sys x).wf = true ↔ IsSysCommon x := decide_eq_true_iff

theorem wf_rt_iff (x : Byte) : (Shorthand.rt x).wf = true ↔ IsRealTime x := decide_eq_true_iff

/-- Settles O9: the expansions are R89's column as written, and each of the seven status bytes is its command nibble
followed by channel − 1. -/
theorem shorthandsExpandToTheirMessages : Obligations.ShorthandsExpandToTheirMessages := by
  intro ch a v x cmd _ h16
  have hdec : ∀ k : Nibble, legalCmd k = true → k ≠ 0 →
      decode cmd (statusByte (k ++ 0#4) ch) = decodeVoice k (BitVec.ofNat 4 (ch - 1)) :=
    fun _ => decode_statusByte cmd h16
  refine ⟨⟨rfl, rfl, rfl, rfl, rfl, rfl, rfl, rfl, rfl, rfl, rfl, rfl⟩, wf_sys_iff x, wf_rt_iff x, ?_⟩
  exact ⟨hdec 0x8 rfl (by decide), hdec 0x9 rfl (by decide), hdec 0xA rfl (by decide), hdec 0xB rfl (by decide),
    hdec 0xC rfl (by decide), hdec 0xD rfl (by decide), hdec 0xE rfl (by decide),
    isData_dataByte a, loSeven_dataByte a⟩

/-! ### The event pins -/

theorem EventKind.code_ne_zero (k : EventKind) : k.code ≠ 0#2 := by
  cases k <;> decide

theorem State.pins_of_event_none {s : State} (h : s.event = none) :
    s.pins = ⟨false, 0, 0, 0, 0, 0, false, 0, false, s.done⟩ := by
  rw [State.pins, h]

theorem State.pins_of_event_some {s : State} {e : Event} (h : s.event = some e) :
    s.pins = ⟨true, e.kind.code, BitVec.ofNat 4 (e.channel - 1), e.command, e.data1, e.data2.getD 0, e.data2.isSome,
      e.portId.getD 0, e.portId.isSome, s.done⟩ := by
  rw [State.pins, h]

/-- Settles O24: without an event the pins are 0, and the code of an event's kind is not 00. -/
theorem eventPinsShowValidity : Obligations.EventPinsShowValidity := by
  intro s
  cases h : s.event with
  | none => simp [State.pins_of_event_none h]
  | some e => simp [State.pins_of_event_some h, e.kind.code_ne_zero]

/-! ### The event of an emitting byte -/

/-- To show something of the state after a byte, show it of every effect a byte can have. -/
theorem nextSuch_feed {b : Byte} {s : State} {P : State → Prop} (h : ∀ t, FeedEffect b s t → P t) :
    NextSuch (feed b s) P := by
  obtain ⟨t, ht, he⟩ := feed_cases b s
  exact ⟨t, ht, h t he⟩

theorem FeedEffect.cfg_eq {b : Byte} {s t : State} (h : FeedEffect b s t) : t.cfg = s.cfg := by
  cases h <;> rfl

/-- The two ways a byte can emit (R124; R122, R123, R127). -/
theorem FeedEffect.event_cases {b : Byte} {s t : State} {e : Event} (h : FeedEffect b s t) (he : t.event = some e) :
    e = s.singleEvent (loSeven b) ∨ e = s.pairEvent s.d1 (loSeven b) := by
  cases h with
  | single => exact .inl (Option.some.inj he).symm
  | second => exact .inr (Option.some.inj he).symm
  | voice | sysCommon | realTime | idle | first => exact absurd he (by simp)

theorem State.pairEvent_kind_noteOn {s : State} {a v : Data7} (h : (s.pairEvent a v).kind = .noteOn) : s.cmd = 0x9 := by
  simp only [State.pairEvent] at h
  split_ifs at h with h8 h9
  exact h9

theorem State.pairEvent_kind_noteOff {s : State} {a v : Data7} (h : (s.pairEvent a v).kind = .noteOff) :
    s.cmd = 0x8 ∨ s.cmd = 0x9 := by
  simp only [State.pairEvent] at h
  split_ifs at h with h8 h9
  · exact .inl h8
  · exact .inr h9

/-- What an emitted event takes from the registers: the command is always `CMD << 4`, and only the note commands make
note events. -/
structure Event.EmittedFrom (e : Event) (s : State) : Prop where
  channel : e.channel = s.chan.toNat + 1
  command : e.command = s.cmd ++ 0#4
  portId : e.portId = s.cfg.portId
  noteOn : e.kind = .noteOn → s.cmd = 0x9
  noteOff : e.kind = .noteOff → s.cmd = 0x8 ∨ s.cmd = 0x9

theorem State.singleEvent_emittedFrom (s : State) (v : Data7) : (s.singleEvent v).EmittedFrom s :=
  ⟨rfl, rfl, rfl, nofun, nofun⟩

theorem State.pairEvent_emittedFrom (s : State) (a v : Data7) : (s.pairEvent a v).EmittedFrom s :=
  ⟨rfl, rfl, rfl, State.pairEvent_kind_noteOn, State.pairEvent_kind_noteOff⟩

theorem FeedEffect.emittedFrom {b : Byte} {s t : State} {e : Event} (h : FeedEffect b s t) (he : t.event = some e) :
    e.EmittedFrom s := by
  rcases h.event_cases he with rfl | rfl
  · exact s.singleEvent_emittedFrom _
  · exact s.pairEvent_emittedFrom _ _

/-- `ev_chan` is `CHAN` again (R84): the pin takes off the 1 that the event's channel added. -/
theorem Event.EmittedFrom.evChan_eq {e : Event} {s : State} (h : e.EmittedFrom s) :
    BitVec.ofNat 4 (e.channel - 1) = s.chan := by
  rw [h.channel, Nat.add_sub_cancel, BitVec.ofNat_toNat, BitVec.setWidth_eq]

/-- Settles O25: the pins are the event's fields, and an emitted event takes channel, command and port from the
registers the byte's rule read. -/
theorem eventPinsCarryTheEvent : Obligations.EventPinsCarryTheEvent := by
  intro b s
  refine nextSuch_feed fun t ht => ⟨ht.cfg_eq, fun e he => ?_⟩
  have hem : e.EmittedFrom s := ht.emittedFrom he
  rw [State.pins_of_event_some he]
  refine ⟨rfl, hem.evChan_eq, rfl, rfl, fun hk => ?_, fun hk => ?_, fun _ => hem.command,
    fun v hv => ?_, fun hv => ?_, fun p hp => ?_, fun hp => ?_⟩
  · rw [hem.command, hem.noteOn hk]; rfl
  · rcases hem.noteOff hk with hc | hc
    · left; rw [hem.command, hc]; rfl
    · right; rw [hem.command, hc]; rfl
  · simp [hv]
  · simp [hv]
  · simp [hem.portId, hp]
  · simp [hem.portId, hp]

end Sys2Proof.Machine
end

section
/-! The family 40_status_bytes.md: what a voice status byte (R101–R108), a System Common byte (R109) and a Real-Time
byte (R110) write, and which data row the data bytes after it run. -/

namespace Sys2Proof.Machine

/-! ### Voice status bytes -/

/-- Settles O10: the byte's nibbles are the operands of VOICE_STATUS. -/
theorem voiceStatusByteSetsRunningStatus : Obligations.VoiceStatusByteSetsRunningStatus :=
  fun _ s h => feed_voice s h

/-- What ties a row of `voiceRows` to the decoder: its nibble is a voice command, its status row is the one the decoder
reads on that nibble (R71), and its data row the one the decoder dispatches to under that `CMD` (R120). -/
structure IsVoiceRow (row : (Nibble → Instr) × Nibble × (Data7 → Instr)) : Prop where
  legal : legalCmd row.2.1 = true
  ne_zero : row.2.1 ≠ 0
  status : ∀ n, row.1 n = decodeVoice row.2.1 n
  data : ∀ v, row.2.2 v = decodeData row.2.1 v

theorem isVoiceRow_of_mem {row : (Nibble → Instr) × Nibble × (Data7 → Instr)} (h : row ∈ voiceRows) :
    IsVoiceRow row := by
  simp only [voiceRows, List.mem_cons, List.not_mem_nil, or_false] at h
  rcases h with rfl | rfl | rfl | rfl | rfl | rfl | rfl <;>
    exact ⟨rfl, by decide, fun _ => rfl, fun _ => rfl⟩

/-- The reachable commands other than None are the seven of R72. -/
theorem legalCmd_voice_cases {k : Nibble} (hk : legalCmd k = true) (h0 : k ≠ 0) :
    k = 0x8 ∨ k = 0x9 ∨ k = 0xA ∨ k = 0xB ∨ k = 0xC ∨ k = 0xD ∨ k = 0xE := by
  revert k; decide

theorem exec_decodeVoice_eq {k : Nibble} (n : Nibble) (s : State) (hk : legalCmd k = true) (h0 : k ≠ 0) :
    exec (decodeVoice k n) s = .next { s with
      cmd := k, chan := n, d1 := 0, d2 := 0, d1v := s.d1vWritten 0, event := none, done := false } := by
  rw [exec_decodeVoice n s (legalCmd_voice_cases hk h0), State.voiceStatus_eq]

theorem encode_decodeVoice {k : Nibble} (n : Nibble) (hk : legalCmd k = true) (h0 : k ≠ 0) :
    encode (decodeVoice k n) = k ++ n := by
  rcases legalCmd_voice_cases hk h0 with rfl | rfl | rfl | rfl | rfl | rfl | rfl <;> rfl

/-- Settles O11: each row is the decoder's row for its command nibble, so VOICE_STATUS and the decoder's laws apply. -/
theorem voiceStatusRowsComplete : Obligations.VoiceStatusRowsComplete := by
  intro s n v row hrow
  obtain ⟨hk, h0, hstatus, hdata⟩ := isVoiceRow_of_mem hrow
  rw [hstatus, hdata]
  exact ⟨exec_decodeVoice_eq n s hk h0, encode_decodeVoice n hk h0, decode_append s.cmd n hk h0,
    decode_dataByte row.2.1 v⟩

/-! ### System bytes -/

theorem exec_sysCommon (x : Bits3) (s : State) :
    exec (.sysCommon x) s = .next { s with cmd := 0, event := none, done := false } := rfl

theorem exec_sysRealtime (x : Bits3) (s : State) :
    exec (.sysRealtime x) s = .next { s with event := none, done := false } := rfl

theorem decode_dataByte_idle (v : Data7) : decode 0x0 (dataByte v) = .dataIdle v := by
  rw [decode_dataByte, decodeData, if_pos rfl]

/-- Settles O12: the row ignores its operand, every byte of the class runs the row, and `CMD = 0` dispatches to
DATA_IDLE. -/
theorem systemCommonClearsOnlyCmd : Obligations.SystemCommonClearsOnlyCmd :=
  fun s x _ v => ⟨exec_sysCommon x s, feed_sysCommon s, decode_dataByte_idle v⟩

theorem isRealTime_systemReset : IsRealTime 0xFF := by
  unfold IsRealTime; decide

/-- Settles O13: the row ignores its operand, and 0xFF is one more byte of the class. -/
theorem realTimeByteChangesNoRegister : Obligations.RealTimeByteChangesNoRegister :=
  fun s x _ => ⟨exec_sysRealtime x s, feed_realTime s, feed_realTime s isRealTime_systemReset⟩

end Sys2Proof.Machine
end

section
/-! The family 41_data_bytes.md: the data row `CMD` selects (R120). -/

namespace Sys2Proof.Machine

/-- A data byte runs the row `decodeData` dispatches to under `CMD`: the byte gives the operand, `CMD` the row. -/
theorem feed_data {b : Byte} (s : State) (h : IsData b) : feed b s = exec (decodeData s.cmd (loSeven b)) s := by
  rw [feed, decode_data s.cmd h]

/-- Under a known `CMD` the row is that command's entry of the dispatch table. -/
theorem feed_data_of_row {b : Byte} {s : State} {k : Nibble} {i : Instr} (h : IsData b) (hcmd : s.cmd = k)
    (hrow : decodeData k (loSeven b) = i) : feed b s = exec i s := by
  rw [feed_data s h, hcmd, hrow]

/-- Settles O6: each clause reads its entry of the dispatch table off `decodeData` at the clause's `CMD`. -/
theorem dataByteDispatchFollowsCmd : Obligations.DataByteDispatchFollowsCmd := by
  intro s b h
  exact ⟨fun h0 => feed_data_of_row h h0 rfl, fun h8 => feed_data_of_row h h8 rfl,
    fun h9 => feed_data_of_row h h9 rfl, fun hC => feed_data_of_row h hC rfl,
    fun hD => feed_data_of_row h hD rfl, fun hA => feed_data_of_row h hA rfl,
    fun hB => feed_data_of_row h hB rfl, fun hE => feed_data_of_row h hE rfl⟩

end Sys2Proof.Machine
end

section
/-! The family 42_event_output.md: which bytes pulse `done` (R158). -/

namespace Sys2Proof.Machine

theorem cmdClass_other_ne {k : Nibble} (h : cmdClass k = .other) : k ≠ 0 ∧ k ≠ 0xC ∧ k ≠ 0xD := by
  revert h; revert k; decide

/-- Only the second data byte of a pair can set `done` (R127); every other effect leaves it 0, as its class of byte, the
class of its `CMD` or the empty test rules the pulse out. -/
theorem FeedEffect.done_iff {b : Byte} {s t : State} (h : FeedEffect b s t) :
    t.done = true ↔ IsData b ∧ cmdClass s.cmd = .other ∧ ¬s.DataEmpty := by
  cases h with
  | voice hv => exact iff_of_false Bool.false_ne_true fun ⟨hd, _, _⟩ => hv.not_data hd
  | sysCommon hs => exact iff_of_false Bool.false_ne_true fun ⟨hd, _, _⟩ => hs.not_data hd
  | realTime hr => exact iff_of_false Bool.false_ne_true fun ⟨hd, _, _⟩ => hr.not_data hd
  | idle _ hc => exact iff_of_false Bool.false_ne_true fun ⟨_, ho, _⟩ => (cmdClass_other_ne ho).1 hc
  | single _ hc =>
    refine iff_of_false Bool.false_ne_true fun ⟨_, ho, _⟩ => ?_
    obtain ⟨_, hC, hD⟩ := cmdClass_other_ne ho
    exact hc.elim hC hD
  | first _ _ _ _ he => exact iff_of_false Bool.false_ne_true fun ⟨_, _, hne⟩ => hne he
  | second hd _ _ _ hne =>
    exact decide_eq_true_iff.trans ⟨fun ho => ⟨hd, ho, hne⟩, fun ⟨_, ho, _⟩ => ho⟩

/-- Settles O21: every effect a byte can have sets `done` exactly under R158's condition. -/
theorem doneExactlyOnGenericCompletion : Obligations.DoneExactlyOnGenericCompletion :=
  fun _ _ => nextSuch_feed fun _ ht => ht.done_iff

end Sys2Proof.Machine
end

section
/-! The family 60_exceptions.md: no byte, no instruction and no clock edge stops the decoder (R200). -/

namespace Sys2Proof.Machine

/-- A clock edge always answers, so a step does, whatever edge comes next; an exhausted input gives a quiet one (log 6). -/
theorem step_total (s : State) : ∃ t, step s = .next t := by
  obtain ⟨t, ht, -⟩ := clockEdge_cases s.nextEdge s.advance
  exact ⟨t, by rw [step_eq, ht]⟩

/-- The meaning of every row is a next state: no arm of the dispatch is a refusal, and the rows whose rule branches on
data1 branch inside that next state, so `CMD` need not be the row's own (log 12). -/
theorem exec_total (i : Instr) (s : State) : ∃ t, exec i s = .next t := by
  cases i <;> exact ⟨_, rfl⟩

theorem nextSuch_true {o : Host.Outcome State Fault Refusal} (h : ∃ t, o = .next t) : NextSuch o fun _ => True :=
  h.imp fun _ ht => ⟨ht, trivial⟩

/-- Settles O32: the step, each instruction and a run of bytes are all total. -/
theorem nothingEverStops : Obligations.NothingEverStops :=
  ⟨fun s => nextSuch_true (step_total s), fun i s => nextSuch_true (exec_total i s), runBytes_total⟩

end Sys2Proof.Machine
end

section
/-! Decoding and encoding (R70–R76 and the opcode table). Every instruction is of one of four forms, one for each class of
byte, and encoder and decoder are inverse on each form. A row that covers a byte has an instruction with that byte. -/

namespace Sys2Proof.Machine

/-! ### The four forms of an instruction -/

theorem encode_decodeData (cmd : Nibble) (v : Data7) : encode (decodeData cmd v) = dataByte v := by
  unfold decodeData
  split_ifs <;> exact (dataByte_eq_append v).symm

theorem stateCond_decodeVoice (k n : Nibble) : (decodeVoice k n).stateCond = none := by
  unfold decodeVoice
  split_ifs <;> rfl

theorem stateCond_decodeData {cmd : Nibble} (v : Data7) (h : legalCmd cmd = true) :
    (decodeData cmd v).stateCond = some cmd := by
  by_cases h0 : cmd = 0
  · subst h0; rfl
  · rcases legalCmd_voice_cases h h0 with rfl | rfl | rfl | rfl | rfl | rfl | rfl <;> rfl

theorem wf_of_stateCond_none {cmd : Nibble} {i : Instr} (h : i.stateCond = none) : i.wf cmd = true := by
  rw [Instr.wf, h]

theorem wf_iff_of_stateCond_some {cmd k : Nibble} {i : Instr} (h : i.stateCond = some k) :
    i.wf cmd = true ↔ cmd = k := by
  rw [Instr.wf, h]
  exact beq_iff_eq

/-- Every instruction is the decoder's row for a voice command and a channel, a system row, or the decoder's row for a data
byte under a `CMD` that R33 allows. -/
theorem instr_form_cases (i : Instr) :
    (∃ k n, legalCmd k = true ∧ k ≠ 0 ∧ i = decodeVoice k n) ∨ (∃ x, i = .sysCommon x) ∨ (∃ x, i = .sysRealtime x) ∨
      ∃ k v, legalCmd k = true ∧ i = decodeData k v := by
  cases i with
  | vsNoteoff n => exact .inl ⟨0x8, n, rfl, by decide, rfl⟩
  | vsNoteon n => exact .inl ⟨0x9, n, rfl, by decide, rfl⟩
  | vsPolyat n => exact .inl ⟨0xA, n, rfl, by decide, rfl⟩
  | vsCc n => exact .inl ⟨0xB, n, rfl, by decide, rfl⟩
  | vsProgchg n => exact .inl ⟨0xC, n, rfl, by decide, rfl⟩
  | vsChanpress n => exact .inl ⟨0xD, n, rfl, by decide, rfl⟩
  | vsPitchbend n => exact .inl ⟨0xE, n, rfl, by decide, rfl⟩
  | sysCommon x => exact .inr (.inl ⟨x, rfl⟩)
  | sysRealtime x => exact .inr (.inr (.inl ⟨x, rfl⟩))
  | dataIdle v => exact .inr (.inr (.inr ⟨0x0, v, rfl, rfl⟩))
  | dataNoteoff v => exact .inr (.inr (.inr ⟨0x8, v, rfl, rfl⟩))
  | dataNoteon v => exact .inr (.inr (.inr ⟨0x9, v, rfl, rfl⟩))
  | dataProgchg v => exact .inr (.inr (.inr ⟨0xC, v, rfl, rfl⟩))
  | dataChanpress v => exact .inr (.inr (.inr ⟨0xD, v, rfl, rfl⟩))
  | dataPolyat v => exact .inr (.inr (.inr ⟨0xA, v, rfl, rfl⟩))
  | dataCc v => exact .inr (.inr (.inr ⟨0xB, v, rfl, rfl⟩))
  | dataPitchbend v => exact .inr (.inr (.inr ⟨0xE, v, rfl, rfl⟩))

/-! ### Encoder and decoder are inverse -/

theorem isSysCommon_append (x : Bits3) : IsSysCommon (0b11110#5 ++ x) :=
  (isSysCommon_iff _).2 (hiFive_append _ x)

theorem isRealTime_append (x : Bits3) : IsRealTime (0b11111#5 ++ x) :=
  (isRealTime_iff _).2 (hiFive_append _ x)

theorem decode_encode {cmd : Nibble} {i : Instr} (h : i.wf cmd = true) : decode cmd (encode i) = i := by
  rcases instr_form_cases i with ⟨k, n, hk, h0, rfl⟩ | ⟨x, rfl⟩ | ⟨x, rfl⟩ | ⟨k, v, hk, rfl⟩
  · rw [encode_decodeVoice n hk h0, decode_append cmd n hk h0]
  · rw [encode, decode_sysCommon cmd (isSysCommon_append x), loThree_append]
  · rw [encode, decode_realTime cmd (isRealTime_append x), loThree_append]
  · have hcmd : cmd = k := (wf_iff_of_stateCond_some (stateCond_decodeData v hk)).1 h
    rw [encode_decodeData, decode_dataByte, hcmd]

theorem IsVoice.legal_hiNibble {b : Byte} (h : IsVoice b) : legalCmd (hiNibble b) = true ∧ hiNibble b ≠ 0 := by
  rcases h.hiNibble_mem with h | h | h | h | h | h | h <;> (rw [h]; decide)

theorem encode_decode (cmd : Nibble) (b : Byte) : encode (decode cmd b) = b := by
  rcases class_cases b with h | h | h | h
  · rw [decode_voice cmd h, encode_decodeVoice _ h.legal_hiNibble.1 h.legal_hiNibble.2, nibbles_append]
  · have h5 : hiFive b = 0b11110#5 := (isSysCommon_iff b).1 h
    rw [decode_sysCommon cmd h, encode, ← h5, hiFive_append_loThree]
  · have h5 : hiFive b = 0b11111#5 := (isRealTime_iff b).1 h
    rw [decode_realTime cmd h, encode, ← h5, hiFive_append_loThree]
  · rw [decode_data cmd h, encode_decodeData, dataByte_loSeven h]

theorem wf_decode {cmd : Nibble} (b : Byte) (hcmd : legalCmd cmd = true) : (decode cmd b).wf cmd = true := by
  rcases class_cases b with h | h | h | h
  · rw [decode_voice cmd h]
    exact wf_of_stateCond_none (stateCond_decodeVoice _ _)
  · rw [decode_sysCommon cmd h]; rfl
  · rw [decode_realTime cmd h]; rfl
  · rw [decode_data cmd h]
    exact (wf_iff_of_stateCond_some (stateCond_decodeData _ hcmd)).2 rfl

/-- Under a `CMD` that R33 allows a byte decodes to the one instruction that has this byte and may stand there. -/
theorem decode_eq_iff {cmd : Nibble} {b : Byte} {i : Instr} (hcmd : legalCmd cmd = true) :
    decode cmd b = i ↔ encode i = b ∧ i.wf cmd = true := by
  constructor
  · rintro rfl
    exact ⟨encode_decode cmd b, wf_decode b hcmd⟩
  · rintro ⟨rfl, hwf⟩
    exact decode_encode hwf

/-- Settles O1: the decoder inverts the encoder on each of the four forms an instruction can have. -/
theorem decodeEncodeRoundTrip : Obligations.DecodeEncodeRoundTrip :=
  fun _ _ h => decode_encode h

/-- Settles O2: the encoder inverts the decoder on each class of byte, and what decodes is well-formed under `CMD`. -/
theorem decodeReadsTheOneInstructionOfAByte : Obligations.DecodeReadsTheOneInstructionOfAByte :=
  fun cmd b _ => ⟨fun h => h ▸ encode_decode cmd b, decode_eq_iff⟩

/-! ### The rows of the opcode table -/

/-- The instruction of row `k` with the operand a byte's low bits give it. -/
def instrOfRow (k : Fin 17) (b : Byte) : Instr :=
  match k with
  | 0 => .vsNoteoff (loNibble b)
  | 1 => .vsNoteon (loNibble b)
  | 2 => .vsPolyat (loNibble b)
  | 3 => .vsCc (loNibble b)
  | 4 => .vsProgchg (loNibble b)
  | 5 => .vsChanpress (loNibble b)
  | 6 => .vsPitchbend (loNibble b)
  | 7 => .sysCommon (loThree b)
  | 8 => .sysRealtime (loThree b)
  | 9 => .dataIdle (loSeven b)
  | 10 => .dataNoteoff (loSeven b)
  | 11 => .dataNoteon (loSeven b)
  | 12 => .dataProgchg (loSeven b)
  | 13 => .dataChanpress (loSeven b)
  | 14 => .dataPolyat (loSeven b)
  | 15 => .dataCc (loSeven b)
  | _ => .dataPitchbend (loSeven b)

theorem rowIndex_instrOfRow (k : Fin 17) (b : Byte) : (instrOfRow k b).rowIndex = k := by
  fin_cases k <;> rfl

theorem encode_instrOfRow {k : Fin 17} {b : Byte} (h : b &&& opcodeTable[k].mask = opcodeTable[k].pattern) :
    encode (instrOfRow k b) = b := by
  revert h
  fin_cases k <;> (revert b; decide)

theorem cond_rowIndex (i : Instr) : opcodeTable[i.rowIndex].cond = i.stateCond := by
  cases i <;> rfl

theorem cond_eq_stateCond_instrOfRow (k : Fin 17) (b : Byte) : opcodeTable[k].cond = (instrOfRow k b).stateCond := by
  rw [← cond_rowIndex, rowIndex_instrOfRow]

theorem covers_iff_of_cond {r : OpcodeRow} {cmd : Nibble} {b : Byte} {i : Instr} (h : r.cond = i.stateCond) :
    r.covers cmd b = true ↔ b &&& r.mask = r.pattern ∧ i.wf cmd = true := by
  unfold OpcodeRow.covers Instr.wf
  cases hc : i.stateCond with
  | none => simp [h, hc]
  | some k => simp [h, hc]

/-- A row that covers a byte under `CMD` has an instruction that is encoded so and may stand there. -/
theorem exists_instr_of_covers {k : Fin 17} {cmd : Nibble} {b : Byte} (h : opcodeTable[k].covers cmd b = true) :
    ∃ i : Instr, i.rowIndex = k ∧ encode i = b ∧ i.wf cmd = true := by
  obtain ⟨hmatch, hwf⟩ := (covers_iff_of_cond (cond_eq_stateCond_instrOfRow k b)).1 h
  exact ⟨instrOfRow k b, rowIndex_instrOfRow k b, encode_instrOfRow hmatch, hwf⟩

/-- The instructions' own statements of the table (`Laws.TableRow`), for every instruction. -/
theorem covers_rowIndex (i : Instr) : Laws.TableRow.Statement i := by
  cases i with
  | vsNoteoff n => exact Laws.TableRow.vsNoteoff n
  | vsNoteon n => exact Laws.TableRow.vsNoteon n
  | vsPolyat n => exact Laws.TableRow.vsPolyat n
  | vsCc n => exact Laws.TableRow.vsCc n
  | vsProgchg n => exact Laws.TableRow.vsProgchg n
  | vsChanpress n => exact Laws.TableRow.vsChanpress n
  | vsPitchbend n => exact Laws.TableRow.vsPitchbend n
  | sysCommon x => exact Laws.TableRow.sysCommon x
  | sysRealtime x => exact Laws.TableRow.sysRealtime x
  | dataIdle v => exact Laws.TableRow.dataIdle v
  | dataNoteoff v => exact Laws.TableRow.dataNoteoff v
  | dataNoteon v => exact Laws.TableRow.dataNoteon v
  | dataProgchg v => exact Laws.TableRow.dataProgchg v
  | dataChanpress v => exact Laws.TableRow.dataChanpress v
  | dataPolyat v => exact Laws.TableRow.dataPolyat v
  | dataCc v => exact Laws.TableRow.dataCc v
  | dataPitchbend v => exact Laws.TableRow.dataPitchbend v

theorem covers_iff_rowIndex {cmd : Nibble} (b : Byte) (k : Fin 17) (hcmd : legalCmd cmd = true) :
    opcodeTable[k].covers cmd b = true ↔ k = (decode cmd b).rowIndex := by
  constructor
  · intro h
    obtain ⟨i, hrow, hi⟩ := exists_instr_of_covers h
    rw [(decode_eq_iff hcmd).2 hi, hrow]
  · rintro rfl
    have h := covers_rowIndex (decode cmd b) cmd (wf_decode b hcmd)
    rwa [encode_decode] at h

/-- Settles O4: a covering row has an instruction with that byte, and the byte has one instruction only. -/
theorem decodeSelectsTheOneCoveringTableRow : Obligations.DecodeSelectsTheOneCoveringTableRow := by
  rintro cmd b _ k hcmd rfl
  refine ⟨covers_iff_rowIndex b k hcmd, fun h => ?_⟩
  rw [(covers_iff_rowIndex b k hcmd).1 h]
  exact cond_rowIndex _

/-- Settles O5: each of the twelve words decodes by evaluation. -/
theorem decodesTableWords : Obligations.DecodesTableWords := by
  unfold Obligations.DecodesTableWords
  decide

/-! ### The operands of a voice status byte -/

theorem commandOf_hiNibble (b : Byte) : commandOf (hiNibble b) = b &&& 0xF0 := by revert b; decide

theorem IsVoice.commandOf_range {b : Byte} (h : IsVoice b) :
    0x80 ≤ commandOf (hiNibble b) ∧ commandOf (hiNibble b) ≤ 0xE0 := by
  rcases h.hiNibble_mem with h | h | h | h | h | h | h <;> (rw [h]; decide)

theorem channelOf_loNibble (b : Byte) : channelOf (loNibble b) = 1 + (b &&& 0x0F).toNat := by revert b; decide

theorem channelOf_range (n : Nibble) : 1 ≤ channelOf n ∧ channelOf n ≤ 16 := by
  have hn : n.toNat < 16 := n.isLt
  unfold channelOf
  omega

/-- Settles O8: the command's range is that of the byte's nibble, and the channel's that of any nibble. -/
theorem commandAndChannelArithmetic : Obligations.CommandAndChannelArithmetic := by
  intro b h
  exact ⟨commandOf_hiNibble b, commandOf_eq_append _, h.commandOf_range.1, h.commandOf_range.2, channelOf_loNibble b,
    channelOf_range _⟩

end Sys2Proof.Machine
end

section
/-! The clocked step (R81, R230–R232): what each kind of edge does, and what every edge leaves alone or does not read;
the observation port (R40), the sink's slots (R156, R157) and several instances (R209). -/

namespace Sys2Proof.Machine

/-! ### The step by its edge -/

theorem step_of_input {s : State} {e : Edge} {rest : List Edge} (h : s.input = e :: rest) :
    step s = clockEdge e { s with input := rest } := by
  simp only [step_eq, State.nextEdge, State.advance, h, List.headD_cons, List.tail_cons]

theorem feed_eq (b : Byte) (s : State) : feed b s = exec (decode s.cmd b) s := rfl

/-- Settles O28: an edge with a byte feeds that byte. -/
theorem stepRunsTheDecodedByte : Obligations.StepRunsTheDecodedByte := by
  intro s e rest hin hrst hvalid
  rw [step_of_input hin, clockEdge_byte _ hrst hvalid, feed_eq]

/-- Settles O29: an edge with `rst = 1` is RESET whatever else it carries. -/
theorem resetEdgeWinsOverAByte : Obligations.ResetEdgeWinsOverAByte := by
  intro s e rest hin hrst
  have hstep : step s = .next (State.applyReset { s with input := rest }) :=
    (step_of_input hin).trans (clockEdge_reset _ hrst)
  rw [State.applyReset_eq] at hstep
  exact hstep

/-- Settles O31: whether the edge stands on the input or the input is exhausted, it is a quiet one. -/
theorem edgeWithoutByteHoldsRegisters : Obligations.EdgeWithoutByteHoldsRegisters := by
  intro s h
  have hquiet : s.nextEdge.rst = false ∧ s.nextEdge.inValid = false := by
    cases hin : s.input with
    | nil => simp [State.nextEdge, hin, Edge.quiet]
    | cons e rest => simpa [State.nextEdge, hin] using h e rest hin
  exact (step_eq s).trans (clockEdge_quiet s.advance hquiet.1 hquiet.2)

/-! ### What no edge writes -/

theorem FeedEffect.input_eq {b : Byte} {s t : State} (h : FeedEffect b s t) : t.input = s.input := by
  cases h <;> rfl

theorem clockEdge_frame {e : Edge} {s t : State} (h : clockEdge e s = .next t) :
    t.input = s.input ∧ t.cfg = s.cfg := by
  obtain ⟨u, hu, heff⟩ := clockEdge_cases e s
  obtain rfl : t = u := by
    rw [h] at hu
    exact Host.Outcome.next.inj hu
  rcases heff with ⟨-, rfl⟩ | ⟨-, -, hf⟩ | ⟨-, -, rfl⟩
  · rw [State.applyReset_eq]
    exact ⟨rfl, rfl⟩
  · exact ⟨hf.input_eq, hf.cfg_eq⟩
  · exact ⟨rfl, rfl⟩

theorem step_frame {s t : State} (h : step s = .next t) : t.input = s.input.tail ∧ t.cfg = s.cfg :=
  clockEdge_frame h

/-- Settles O33: the step takes one edge off, and no kind of edge writes the input or the parameters. -/
theorem stepConsumesOneEdgeAndKeepsParameters : Obligations.StepConsumesOneEdgeAndKeepsParameters := by
  intro s
  obtain ⟨t, ht⟩ := step_total s
  exact ⟨t, ht, step_frame ht⟩

/-! ### The outputs are not read -/

/-- Every meaning clears the outputs before it does anything, and tests and operands are read off registers only. -/
theorem exec_clearOutputs (i : Instr) (s : State) : exec i s.clearOutputs = exec i s := by
  cases i <;> rfl

theorem feed_clearOutputs (b : Byte) (s : State) : feed b s.clearOutputs = feed b s := by
  rw [feed_eq, feed_eq, exec_clearOutputs, State.clearOutputs_cmd]

theorem clockEdge_clearOutputs (e : Edge) (s : State) : clockEdge e s.clearOutputs = clockEdge e s := by
  cases hrst : e.rst
  · cases hvalid : e.inValid
    · rw [clockEdge_quiet _ hrst hvalid, clockEdge_quiet _ hrst hvalid]; rfl
    · rw [clockEdge_byte _ hrst hvalid, clockEdge_byte _ hrst hvalid, feed_clearOutputs]
  · rw [clockEdge_reset _ hrst, clockEdge_reset _ hrst]; rfl

theorem step_clearOutputs (s : State) : step s.clearOutputs = step s :=
  clockEdge_clearOutputs s.nextEdge s.advance

/-- States with the same registers, parameters and input differ in their outputs only. -/
theorem State.SameRegs.clearOutputs_eq {s t : State} (h : s.SameRegs t) (hin : s.input = t.input) :
    s.clearOutputs = t.clearOutputs := by
  obtain ⟨hcfg, hcmd, hchan, hd1, hd2, hd1v⟩ := h
  rw [State.clearOutputs, State.clearOutputs, hcfg, hcmd, hchan, hd1, hd2, hd1v, hin]

/-- Settles O35: clearing the outputs of either state changes no step, and makes the two states one. -/
theorem outputsDoNotFeedBack : Obligations.OutputsDoNotFeedBack := by
  intro s t h hin
  refine ⟨?_, nextSuch_true (step_total s)⟩
  rw [← step_clearOutputs s, h.clearOutputs_eq hin, step_clearOutputs]

/-! ### Pins and observation port after reset -/

theorem State.resetOf_pins (c : Config) : (State.resetOf c).pins = ⟨false, 0, 0, 0, 0, 0, false, 0, false, false⟩ :=
  State.pins_of_event_none rfl

theorem State.applyReset_pins (s : State) : s.applyReset.pins = ⟨false, 0, 0, 0, 0, 0, false, 0, false, false⟩ := by
  rw [State.applyReset_eq]
  exact State.pins_of_event_none rfl

/-- The port does not show `D1V` in FAITHFUL mode, the one register a reset does not bring to its reset value there. -/
theorem State.applyReset_observation (s : State) : s.applyReset.observation = (State.resetOf s.cfg).observation := by
  rw [State.applyReset_eq]
  cases hm : s.cfg.emptyMode with
  | faithful => simp [State.observation, State.resetOf, hm]
  | explicit => simpa [State.observation, State.resetOf, hm] using s.d1vWritten_explicit 0 hm

/-- Settles O30: the reset state is written out in `State.resetOf`, and a reset edge shows the same on pins and port. -/
theorem resetStateAndPins : Obligations.ResetStateAndPins := by
  intro c s v b
  exact ⟨rfl, rfl, rfl, rfl, fun _ => rfl, rfl, State.resetOf_pins c, s.applyReset, clockEdge_reset s rfl,
    s.applyReset_pins, s.applyReset_observation⟩

/-- Settles O26: the port shows each register, and the mode decides whether `D1V` is among them. -/
theorem observationPortShowsRegisters : Obligations.ObservationPortShowsRegisters := by
  intro s
  refine ⟨rfl, rfl, rfl, rfl, fun hm => ?_, fun hm => ?_⟩
  · simp [State.observation, hm]
  · simp [State.observation, hm]

/-! ### The sink -/

theorem Sink.slot_redirect_same (k : Sink) (kind : EventKind) (h : Option Nat) : (k.redirect kind h).slot kind = h := by
  cases kind <;> rfl

theorem Sink.slot_redirect_ne (k : Sink) {kind kind' : EventKind} (h : Option Nat) (hne : kind ≠ kind') :
    (k.redirect kind h).slot kind' = k.slot kind' := by
  cases kind with
  | noteOn => cases kind' with
    | noteOn => exact absurd rfl hne
    | noteOff | thru => rfl
  | noteOff => cases kind' with
    | noteOff => exact absurd rfl hne
    | noteOn | thru => rfl
  | thru => cases kind' with
    | thru => exact absurd rfl hne
    | noteOn | noteOff => rfl

theorem Sink.deliver_of_slot_some {k : Sink} {e : Event} {h : Nat} (hs : k.slot e.kind = some h) :
    k.deliver e = .invoke h ⟨e.channel, e.command, e.data1, e.data2, e.portId⟩ := by
  simp only [Sink.deliver, hs]

theorem Sink.deliver_of_slot_none {k : Sink} {e : Event} (hs : k.slot e.kind = none) :
    k.deliver e = .trace e.kind e.channel e.data1 e.data2 := by
  simp only [Sink.deliver, hs]

theorem Sink.deliver_congr {k k' : Sink} {e : Event} (hs : k.slot e.kind = k'.slot e.kind) :
    k.deliver e = k'.deliver e := by
  simp only [Sink.deliver, hs]

/-- Settles O27: a delivery looks at the event kind's own slot only, and redirecting writes the one slot named. -/
theorem sinkDeliversBySlot : Obligations.SinkDeliversBySlot := by
  intro k e kind h
  exact ⟨Sink.deliver_of_slot_some (k.slot_redirect_same _ _), Sink.deliver_of_slot_none (k.slot_redirect_same _ _),
    fun hne => ⟨Sink.deliver_congr (k.slot_redirect_ne _ hne), Sink.deliver_congr (k.slot_redirect_ne _ hne)⟩⟩

/-! ### Several instances -/

theorem Bank.stepAt_of_step {b : Bank} {k : Nat} {s t : State} (hk : b[k]? = some s) (ht : step s = .next t) :
    b.stepAt k = .next (b.set k t) := by
  simp only [Bank.stepAt, hk, ht]

/-- Settles O52: the step of one decoder replaces its own entry of the bank. -/
theorem instancesAreIndependent : Obligations.InstancesAreIndependent := by
  intro b k s hk
  obtain ⟨t, ht⟩ := step_total s
  have hlt : k < b.length := (List.getElem?_eq_some_iff.1 hk).1
  exact ⟨b.set k t, t, Bank.stepAt_of_step hk ht, ht, List.length_set, List.getElem?_set_self hlt,
    fun _ hj => List.getElem?_set_ne hj.symm⟩

end Sys2Proof.Machine
end

section
/-! The invariant of a step boundary (10_state.md R30–R33) and what it says of emitted events (R160). -/

namespace Sys2Proof.Machine

/-! ### The invariant is kept -/

theorem State.resetOf_inv {c : Config} (h : c.wf = true) : (State.resetOf c).Inv where
  d2Zero := rfl
  cmdLegal := rfl
  oneByteData _ := ⟨rfl, fun _ => rfl⟩
  unmarked _ _ := rfl
  inert _ := rfl
  params := h

/-- The invariant speaks of registers and parameters only. -/
theorem State.Inv.of_sameRegs {s t : State} (hs : s.Inv) (h : s.SameRegs t) : t.Inv := by
  obtain ⟨hcfg, hcmd, -, hd1, hd2, hd1v⟩ := h
  obtain ⟨d2Zero, cmdLegal, oneByteData, unmarked, inert, params⟩ := hs
  rw [hcfg] at oneByteData unmarked inert params
  rw [hcmd] at cmdLegal oneByteData
  rw [hd1] at oneByteData unmarked
  rw [hd1v] at oneByteData unmarked inert
  exact ⟨hd2 ▸ d2Zero, cmdLegal, oneByteData, unmarked, inert, params⟩

/-- Whatever clears the data (a voice status byte, a second data byte, a reset) and leaves a legal `CMD` keeps the
invariant. -/
theorem State.Inv.of_cleared {s t : State} (hs : s.Inv) (hcfg : t.cfg = s.cfg) (hcmd : legalCmd t.cmd = true)
    (hd1 : t.d1 = 0) (hd2 : t.d2 = 0) (hd1v : t.d1v = s.d1vWritten 0) : t.Inv where
  d2Zero := hd2
  cmdLegal := hcmd
  oneByteData _ := ⟨hd1, fun hm => hd1v.trans (s.d1vWritten_explicit 0 (hcfg ▸ hm))⟩
  unmarked _ _ := hd1
  inert hm := by
    rw [hcfg] at hm
    rw [hd1v, s.d1vWritten_faithful 0 hm, hs.inert hm]
  params := hcfg ▸ hs.params

theorem FeedEffect.inv {b : Byte} {s t : State} (h : FeedEffect b s t) (hs : s.Inv) : t.Inv := by
  cases h with
  | voice hv => exact hs.of_cleared rfl hv.legal_hiNibble.1 rfl rfl rfl
  | sysCommon _ => exact ⟨hs.d2Zero, rfl, fun hc => hc.elim nofun nofun, hs.unmarked, hs.inert, hs.params⟩
  | realTime _ => exact hs.of_sameRegs ⟨rfl, rfl, rfl, rfl, rfl, rfl⟩
  | idle _ _ => exact hs.of_sameRegs ⟨rfl, rfl, rfl, rfl, rfl, rfl⟩
  | single _ hc =>
    exact ⟨hs.d2Zero, hs.cmdLegal, fun _ => ⟨rfl, (hs.oneByteData hc).2⟩, fun _ _ => rfl, hs.inert, hs.params⟩
  | first _ _ hC hD _ =>
    refine ⟨hs.d2Zero, hs.cmdLegal, fun hc => absurd hc (not_or.2 ⟨hC, hD⟩), fun hm h0 => ?_, fun hm => ?_, hs.params⟩
    · exact absurd ((s.d1vWritten_explicit 1 hm).symm.trans h0) (by decide)
    · exact (s.d1vWritten_faithful 1 hm).trans (hs.inert hm)
  | second _ _ _ _ _ => exact hs.of_cleared rfl hs.cmdLegal rfl rfl rfl

theorem State.Inv.applyReset {s : State} (hs : s.Inv) : s.applyReset.Inv := by
  rw [State.applyReset_eq]
  exact hs.of_cleared rfl rfl rfl rfl rfl

theorem clockEdge_inv {e : Edge} {s : State} (hs : s.Inv) : NextSuch (clockEdge e s) State.Inv := by
  obtain ⟨t, ht, ⟨-, rfl⟩ | ⟨-, -, hf⟩ | ⟨-, -, rfl⟩⟩ := clockEdge_cases e s
  · exact ⟨_, ht, hs.applyReset⟩
  · exact ⟨t, ht, hf.inv hs⟩
  · exact ⟨_, ht, hs.of_sameRegs ⟨rfl, rfl, rfl, rfl, rfl, rfl⟩⟩

theorem State.Inv.advance {s : State} (hs : s.Inv) : s.advance.Inv :=
  hs.of_sameRegs ⟨rfl, rfl, rfl, rfl, rfl, rfl⟩

theorem step_inv {s : State} (hs : s.Inv) : NextSuch (step s) State.Inv := clockEdge_inv hs.advance

/-- Settles O38: every clause holds of the registers' reset values, under the default parameters as under any legal ones. -/
theorem resetEstablishesInvariant : Obligations.ResetEstablishesInvariant :=
  ⟨State.resetOf_inv rfl, fun _ h => State.resetOf_inv h⟩

/-- Settles O39: a reset and every effect of a byte keep the invariant, and an edge without a byte writes no register. -/
theorem stepKeepsInvariant : Obligations.StepKeepsInvariant := by
  intro s t hs ht
  obtain ⟨u, hu, hinv⟩ := step_inv hs
  rw [ht] at hu
  cases hu
  exact hinv

/-! ### Every run from reset -/

theorem runSteps_inv (k : Nat) {s : State} (hs : s.Inv) :
    ∃ os t, runSteps k s = .next (os, t) ∧ t.Inv ∧ t.cfg = s.cfg := by
  induction k generalizing s with
  | zero => exact ⟨[], s, rfl, hs, rfl⟩
  | succ k ih =>
    obtain ⟨t, ht, hinv⟩ := step_inv hs
    obtain ⟨os, u, hu, huinv, hcfg⟩ := ih hinv
    exact ⟨t.obs :: os, u, runSteps_cons ht hu, huinv, hcfg.trans (step_frame ht).2⟩

theorem legalCmd_mem {k : Nibble} (h : legalCmd k = true) :
    k ∈ ([0x0, 0x8, 0x9, 0xA, 0xB, 0xC, 0xD, 0xE] : List Nibble) := by
  revert h; revert k; decide

/-- Settles O40: the invariant holds at reset and along the run, and its clauses are R31–R33. -/
theorem registersAtEveryStepBoundary : Obligations.RegistersAtEveryStepBoundary := by
  intro c es k hc
  have hreset : State.Inv { State.resetOf c with input := es } :=
    (State.resetOf_inv hc).of_sameRegs ⟨rfl, rfl, rfl, rfl, rfl, rfl⟩
  obtain ⟨os, t, hrun, hinv, hcfg⟩ := runSteps_inv k hreset
  refine ⟨os, t, hrun, hinv.d2Zero, legalCmd_mem hinv.cmdLegal, fun hmem => ?_⟩
  obtain ⟨hd1, hd1v⟩ := hinv.oneByteData (by simpa using hmem)
  exact ⟨hd1, fun hm => hd1v (hcfg ▸ hm)⟩

/-! ### The events of a state with the invariant -/

theorem State.singleEvent_reachable {s : State} (m : EmptyMode) (v : Data7) (hc : s.cmd = 0xC ∨ s.cmd = 0xD) :
    (s.singleEvent v).Reachable m := by
  refine ⟨channelOf_range s.chan, ?_⟩
  rcases hc with hc | hc
  · exact .inl (by rw [State.singleEvent, hc]; rfl)
  · exact .inr (by rw [State.singleEvent, hc]; rfl)

/-- The commands left by R33 when the byte is the second of a two-byte message. -/
theorem legalCmd_pair_cases {k : Nibble} (hk : legalCmd k = true) (h0 : k ≠ 0) (hC : k ≠ 0xC) (hD : k ≠ 0xD) :
    k = 0x8 ∨ k = 0x9 ∨ k = 0xA ∨ k = 0xB ∨ k = 0xE := by
  revert k; decide

theorem one_le_of_ne_zero {v : Data7} (h : v ≠ 0) : 1 ≤ v := by
  revert v; decide

theorem State.pairEvent_reachable {s : State} {m : EmptyMode} {a : Data7} (v : Data7)
    (hc : s.cmd = 0x8 ∨ s.cmd = 0x9 ∨ s.cmd = 0xA ∨ s.cmd = 0xB ∨ s.cmd = 0xE) (ha : m = .faithful → 1 ≤ a) :
    (s.pairEvent a v).Reachable m := by
  refine ⟨channelOf_range s.chan, ?_⟩
  rcases hc with hc | hc | hc | hc | hc <;> rw [State.pairEvent, hc]
  · exact ⟨.inl rfl, ha⟩
  · by_cases hv : v = 0
    · subst hv
      exact ⟨.inr ⟨rfl, rfl⟩, ha⟩
    · rw [if_neg hv]
      exact ⟨rfl, one_le_of_ne_zero hv, ha⟩
  · exact ⟨.inl rfl, ha⟩
  · exact ⟨.inr (.inl rfl), ha⟩
  · exact ⟨.inr (.inr rfl), ha⟩

/-- In FAITHFUL mode a pending first byte is not 0, since 0 is "empty" there (R27, R131). -/
theorem State.one_le_d1_of_not_dataEmpty {s : State} (he : ¬s.DataEmpty) (hm : s.cfg.emptyMode = .faithful) :
    1 ≤ s.d1 :=
  one_le_of_ne_zero fun h0 => he (.inl ⟨hm, h0⟩)

theorem FeedEffect.event_reachable {b : Byte} {s t : State} {e : Event} (h : FeedEffect b s t) (hs : s.Inv)
    (he : t.event = some e) : e.Reachable s.cfg.emptyMode := by
  cases h with
  | voice | sysCommon | realTime | idle | first => exact absurd he (by simp)
  | single _ hc =>
    obtain rfl := Option.some.inj he
    exact s.singleEvent_reachable _ _ hc
  | second _ h0 hC hD hne =>
    obtain rfl := Option.some.inj he
    exact State.pairEvent_reachable _ (legalCmd_pair_cases hs.cmdLegal h0 hC hD)
      (State.one_le_d1_of_not_dataEmpty hne)

/-- Settles O23: only an edge with a byte emits, and the invariant bounds the registers its event is made of. -/
theorem emittedEventsTakeReachableValues : Obligations.EmittedEventsTakeReachableValues := by
  intro s hs
  obtain ⟨t, ht, hcases⟩ := clockEdge_cases s.nextEdge s.advance
  refine ⟨t, (step_eq s).trans ht, fun e he => ?_⟩
  rcases hcases with ⟨-, rfl⟩ | ⟨-, -, hf⟩ | ⟨-, -, rfl⟩
  · rw [State.applyReset_eq] at he
    exact absurd he (by simp)
  · exact ⟨hf.event_reachable hs.advance he, (hf.emittedFrom he).portId⟩
  · exact absurd he (by simp)

end Sys2Proof.Machine
end

section
/-! What a data byte does, row by row and under each command (R120–R131). -/

namespace Sys2Proof.Machine

/-! ### The data1-empty test -/

theorem State.dataEmpty_iff_faithful {s : State} (hm : s.cfg.emptyMode = .faithful) : s.DataEmpty ↔ s.d1 = 0 := by
  simp [State.DataEmpty, hm]

theorem State.dataEmpty_iff_explicit {s : State} (hm : s.cfg.emptyMode = .explicit) : s.DataEmpty ↔ s.d1v = 0 := by
  simp [State.DataEmpty, hm]

/-- Settles O19: the test is `DataEmpty`, of which each mode leaves one half. -/
theorem dataEmptyTestPerMode : Obligations.DataEmptyTestPerMode :=
  fun s => ⟨fun hm => s.d1Empty_iff.trans (State.dataEmpty_iff_faithful hm),
    fun hm => s.d1Empty_iff.trans (State.dataEmpty_iff_explicit hm)⟩

theorem State.ite_d1Empty_of_empty {s : State} (he : s.DataEmpty) (t u : State) : (if s.d1Empty then t else u) = t :=
  if_pos (s.d1Empty_iff.2 he)

theorem State.ite_d1Empty_of_set {s : State} (he : ¬s.DataEmpty) (t u : State) : (if s.d1Empty then t else u) = u :=
  if_neg fun h => he (s.d1Empty_iff.1 h)

/-! ### No running status -/

theorem exec_dataIdle (v : Data7) (s : State) :
    exec (.dataIdle v) s = .next { s with event := none, done := false } := rfl

/-- Settles O14: the row clears the outputs and writes no register, and it is the row of `CMD = 0`. -/
theorem idleDataByteIsDiscarded : Obligations.IdleDataByteIsDiscarded :=
  fun s v => ⟨exec_dataIdle v s, fun h0 => feed_idle h0 fun hv => hv.not_data (isData_dataByte v)⟩

/-! ### The rows with a first and a second data byte -/

theorem feed_dataByte_of_row {v : Data7} {s : State} {k : Nibble} {i : Instr} (hcmd : s.cmd = k)
    (hrow : decodeData k v = i) : feed (dataByte v) s = exec i s :=
  feed_data_of_row (isData_dataByte v) hcmd (by rw [loSeven_dataByte, hrow])

theorem exec_dataNoteoff (v : Data7) (s : State) : exec (.dataNoteoff v) s =
    .next (if s.d1Empty then s.storeFirst v else s.completeSecond v .noteOff 0x80) := rfl

theorem exec_dataNoteon (v : Data7) (s : State) : exec (.dataNoteon v) s =
    .next (if s.d1Empty then s.storeFirst v
      else if v = 0 then s.completeSecond v .noteOff 0x90 else s.completeSecond v .noteOn 0x90) := rfl

/-- Settles O15: the two branches of the row are the first-byte store and the second-byte completion. -/
theorem noteOffDataBytes : Obligations.NoteOffDataBytes := by
  intro s v
  refine ⟨fun he => ?_, fun he => ?_, fun h8 => feed_dataByte_of_row h8 rfl⟩
  · rw [exec_dataNoteoff, State.ite_d1Empty_of_empty he, State.storeFirst_eq]
  · rw [exec_dataNoteoff, State.ite_d1Empty_of_set he, State.completeSecond_eq]

/-- Settles O16: as for NoteOff, with the second byte's value choosing the kind of event. -/
theorem noteOnDataBytes : Obligations.NoteOnDataBytes := by
  intro s v
  refine ⟨fun he => ?_, fun he hv => ?_, fun he hv => ?_, fun h9 => feed_dataByte_of_row h9 rfl⟩
  · rw [exec_dataNoteon, State.ite_d1Empty_of_empty he, State.storeFirst_eq]
  · rw [exec_dataNoteon, State.ite_d1Empty_of_set he, if_pos hv, State.completeSecond_eq, hv]
  · rw [exec_dataNoteon, State.ite_d1Empty_of_set he, if_neg hv, State.completeSecond_eq]

theorem State.twoByte_of_empty {s : State} (v : Data7) (he : s.DataEmpty) :
    s.twoByte v = { s with d1 := v, d1v := s.d1vWritten 1, event := none, done := false } := by
  rw [State.twoByte, State.ite_d1Empty_of_empty he, State.storeFirst_eq]

theorem State.twoByte_of_set {s : State} (v : Data7) (he : ¬s.DataEmpty) : s.twoByte v = { s with
    d1 := 0, d2 := 0, d1v := s.d1vWritten 0, done := true,
    event := some ⟨.thru, s.chan.toNat + 1, s.cmd ++ 0#4, s.d1, some v, s.cfg.portId⟩ } := by
  rw [State.twoByte, State.ite_d1Empty_of_set he, State.completeSecond_eq, commandOf_eq_append]
  rfl

theorem exec_of_twoByteRow {i : Instr} {v : Data7} (s : State)
    (hi : i = .dataPolyat v ∨ i = .dataCc v ∨ i = .dataPitchbend v) : exec i s = .next (s.twoByte v) := by
  rcases hi with rfl | rfl | rfl <;> rfl

/-- Settles O18: the three rows are TWO_BYTE. -/
theorem genericTwoByteMessages : Obligations.GenericTwoByteMessages := by
  intro s v i hi
  rw [exec_of_twoByteRow s hi]
  refine ⟨fun he => ?_, fun he => ?_, fun hA => ⟨feed_dataByte_of_row hA rfl, ?_⟩,
    fun hB => ⟨feed_dataByte_of_row hB rfl, ?_⟩, fun hE => ⟨feed_dataByte_of_row hE rfl, ?_⟩⟩
  · rw [State.twoByte_of_empty v he]
  · rw [State.twoByte_of_set v he]
  · rw [hA]; rfl
  · rw [hB]; rfl
  · rw [hE]; rfl

/-! ### The rows with one data byte -/

theorem exec_of_oneByteRow {i : Instr} {v : Data7} (s : State) (hi : i = .dataProgchg v ∨ i = .dataChanpress v) :
    exec i s = .next (s.oneByte v) := by
  rcases hi with rfl | rfl <;> rfl

/-- Settles O17: the two rows are ONE_BYTE. -/
theorem oneByteMessagesEmitAtOnce : Obligations.OneByteMessagesEmitAtOnce := by
  intro s v i hi
  rw [exec_of_oneByteRow s hi, State.oneByte_eq]
  refine ⟨rfl, fun hC => ⟨feed_dataByte_of_row hC rfl, ?_⟩, fun hD => ⟨feed_dataByte_of_row hD rfl, ?_⟩⟩
  · rw [hC]; rfl
  · rw [hD]; rfl

/-! ### The commands no run reaches -/

theorem legalCmd_false_ne {k : Nibble} (h : legalCmd k = false) : k ≠ 0 ∧ k ≠ 0xC ∧ k ≠ 0xD := by
  revert h; revert k; decide

theorem cmdClass_of_not_legal {k : Nibble} (h : legalCmd k = false) : cmdClass k = .other := by
  revert h; revert k; decide

theorem State.pairEvent_of_other {s : State} (a v : Data7) (h : cmdClass s.cmd = .other) :
    s.pairEvent a v = ⟨.thru, s.chan.toNat + 1, s.cmd ++ 0#4, a, some v, s.cfg.portId⟩ := by
  have h8 : s.cmd ≠ 0x8 := fun hc => absurd (hc ▸ h) (by decide)
  have h9 : s.cmd ≠ 0x9 := fun hc => absurd (hc ▸ h) (by decide)
  rw [State.pairEvent, if_neg h8, if_neg h9]

/-- Settles O7: such a `CMD` is of the class Other, whose pairs are Thru events that pulse `done`. -/
theorem unreachableCommandsRunTheGenericRule : Obligations.UnreachableCommandsRunTheGenericRule := by
  intro s b hb hcmd
  obtain ⟨h0, hC, hD⟩ := legalCmd_false_ne hcmd
  have hother : cmdClass s.cmd = .other := cmdClass_of_not_legal hcmd
  refine ⟨fun he => feed_first_of hb h0 hC hD he, fun he => ?_⟩
  rw [feed_second_of hb h0 hC hD he, State.pairEvent_of_other _ _ hother, decide_eq_true hother]

/-! ### The zero byte in FAITHFUL mode -/

/-- In FAITHFUL mode a first data byte is stored in `D1` alone. -/
theorem feed_first_faithful {v : Data7} {s : State} (hm : s.cfg.emptyMode = .faithful) (hc : twoByteCmd s.cmd = true)
    (h1 : s.d1 = 0) : feed (dataByte v) s = .next { s with d1 := v, event := none, done := false } := by
  rw [feed_first (isData_dataByte v) hc ((State.dataEmpty_iff_faithful hm).2 h1), loSeven_dataByte,
    s.d1vWritten_faithful 1 hm]

/-- Settles O20: storing 0 in `D1` leaves it 0, so data1 is still empty at the byte after. -/
theorem faithfulModeAbsorbsZeroFirstByte : Obligations.FaithfulModeAbsorbsZeroFirstByte := by
  intro s v hm hc h1
  have hzero : feed (dataByte 0) s = .next { s with event := none, done := false } := by
    rw [feed_first_faithful hm hc h1, ← h1]
  exact ⟨hzero, runBytes_cons hzero (runBytes_cons (feed_first_faithful hm hc h1) (runBytes_nil _))⟩

end Sys2Proof.Machine
end

section
/-! What a byte emits, which registers it writes and the state machine's summary table (R21–R29, R150), read off the
step's answer on each class of byte. -/

namespace Sys2Proof.Machine

theorem eq_of_feed {b : Byte} {s t u : State} (h : feed b s = .next t) (g : feed b s = .next u) : t = u :=
  Host.Outcome.next.inj (h.symm.trans g)

/-- To show something of the state after a byte, show it of whatever state the step answers. -/
theorem nextSuch_of_feed {b : Byte} {s : State} {P : State → Prop} (h : ∀ t, feed b s = .next t → P t) :
    NextSuch (feed b s) P := by
  obtain ⟨t, ht, -⟩ := feed_cases b s
  exact ⟨t, ht, h t ht⟩

/-! ### Events -/

theorem FeedEffect.event_none_of_not_data {b : Byte} {s t : State} (h : FeedEffect b s t) (hb : ¬IsData b) :
    t.event = none := by
  cases h with
  | voice | sysCommon | realTime => rfl
  | idle hd | single hd | first hd | second hd => exact absurd hd hb

/-- Settles O22: each clause is one branch of the data rows, or says that a status byte has none that emits. -/
theorem eventFieldsComeFromRegisters : Obligations.EventFieldsComeFromRegisters := by
  intro b s
  refine nextSuch_of_feed fun t ht => ⟨(feed_effect ht).event_none_of_not_data, fun hd h0 => ?_, fun hd hc => ?_,
    fun hd hc he => ?_, fun hd hc he => ?_⟩
  · rw [eq_of_feed ht (feed_idle h0 fun hv => hv.not_data hd)]
  · rw [eq_of_feed ht (feed_single hd hc)]
  · rw [eq_of_feed ht (feed_first hd hc he)]
  · rw [eq_of_feed ht (feed_second hd hc he)]

/-! ### Who writes a register -/

theorem FeedEffect.cmd_eq {b : Byte} {s t : State} (h : FeedEffect b s t) (hb : IsData b ∨ IsRealTime b) :
    t.cmd = s.cmd := by
  cases h with
  | voice hv => exact (hb.elim hv.not_data hv.not_realTime).elim
  | sysCommon hs => exact (hb.elim hs.not_data hs.not_realTime).elim
  | realTime | idle | single | first | second => rfl

theorem FeedEffect.chan_eq {b : Byte} {s t : State} (h : FeedEffect b s t) (hb : ¬IsVoice b) : t.chan = s.chan := by
  cases h with
  | voice hv => exact absurd hv hb
  | sysCommon | realTime | idle | single | first | second => rfl

theorem FeedEffect.data_eq_of_system {b : Byte} {s t : State} (h : FeedEffect b s t)
    (hb : IsSysCommon b ∨ IsRealTime b) : t.d1 = s.d1 ∧ t.d2 = s.d2 ∧ t.d1v = s.d1v := by
  cases h with
  | voice hv => exact (hb.elim hv.not_sysCommon hv.not_realTime).elim
  | sysCommon | realTime => exact ⟨rfl, rfl, rfl⟩
  | idle hd | single hd | first hd | second hd =>
    exact (hb.elim (fun g => g.not_data hd) (fun g => g.not_data hd)).elim

theorem FeedEffect.data_of_isData {b : Byte} {s t : State} (h : FeedEffect b s t) (hb : IsData b) :
    (t.d1 = s.d1 ∨ t.d1 = loSeven b ∨ t.d1 = 0) ∧ (t.d2 = s.d2 ∨ t.d2 = 0) := by
  cases h with
  | voice hv => exact absurd hb hv.not_data
  | sysCommon hs => exact absurd hb hs.not_data
  | realTime hr => exact absurd hb hr.not_data
  | idle => exact ⟨.inl rfl, .inl rfl⟩
  | single => exact ⟨.inr (.inr rfl), .inl rfl⟩
  | first => exact ⟨.inr (.inl rfl), .inl rfl⟩
  | second => exact ⟨.inr (.inr rfl), .inr rfl⟩

/-- Settles O34: one lemma a register or group of registers, over the effects a byte can have. -/
theorem registersHaveOnlyTheirNamedWriters : Obligations.RegistersHaveOnlyTheirNamedWriters := by
  intro b s
  refine nextSuch_of_feed fun t ht => ?_
  have heff : FeedEffect b s t := feed_effect ht
  refine ⟨heff.cmd_eq, heff.chan_eq, heff.data_eq_of_system, fun hv => ?_, fun hd => (heff.data_of_isData hd).1,
    fun hd => (heff.data_of_isData hd).2⟩
  rw [eq_of_feed ht (feed_voice s hv)]
  exact ⟨rfl, rfl⟩

/-! ### The state machine view -/

theorem State.idle_iff (s : State) : s.idle = true ↔ s.cmd = 0 := beq_iff_eq

theorem State.running_iff (s : State) : s.running = true ↔ s.cmd ≠ 0 := by
  rw [State.running, Bool.not_eq_true', ← Bool.not_eq_true, s.idle_iff]

/-- Settles O37: each row of the table is the step's answer on its class of byte, in its mode and with its empty test. -/
theorem stateMachineTable : Obligations.StateMachineTable := by
  intro b s
  refine nextSuch_of_feed fun t ht => ⟨s.idle_iff, s.running_iff, s.d1Empty_iff, fun hv => ?_, fun hi hv => ?_,
    fun _ hs => ?_, fun _ hr => ?_, fun hc he hd => ?_, fun hc he hd => ?_⟩
  · rw [eq_of_feed ht (feed_voice s hv)]
    exact ⟨(State.running_iff _).2 hv.legal_hiNibble.2, rfl, rfl, s.dataEmpty_of_cleared rfl rfl rfl, rfl, rfl⟩
  · rw [eq_of_feed ht (feed_idle (s.idle_iff.1 hi) hv)]
    exact ⟨⟨rfl, rfl, rfl, rfl, rfl, rfl⟩, rfl⟩
  · rw [eq_of_feed ht (feed_sysCommon s hs)]
    rfl
  · rw [eq_of_feed ht (feed_realTime s hr)]
    exact ⟨rfl, rfl, rfl, rfl, rfl, rfl⟩
  · rw [eq_of_feed ht (feed_first hd hc he)]
    refine ⟨rfl, rfl, rfl, fun hz => s.not_dataEmpty_of_stored rfl rfl rfl fun hm => ?_⟩
    exact hz.resolve_left fun hx => nomatch hm.symm.trans hx
  · rw [eq_of_feed ht (feed_second hd hc he)]
    exact ⟨rfl, s.dataEmpty_of_cleared rfl rfl rfl, rfl, rfl, Option.some_ne_none _⟩

end Sys2Proof.Machine
end

section
/-! Runs over bytes (R58, R161, R242) and what two runs have in common. `runBytes_sim` packages the induction once: a
relation that one byte keeps, with the same outputs on both sides, gives the same observations over every byte list. -/

namespace Sys2Proof.Machine

/-! ### Composition -/

/-- Settles O49: runs are total and compose, and a run of one byte is one `feed`. -/
theorem runsComposeInByteOrder : Obligations.RunsComposeInByteOrder := by
  intro as bs s
  obtain ⟨os, u, hu, hlen⟩ := runBytes_total as s
  obtain ⟨ps, w, hw, -⟩ := runBytes_total bs u
  refine ⟨rfl, os, u, ps, w, hu, hlen, fun b => ?_, hw, runBytes_append hu hw, List.filterMap_append⟩
  obtain ⟨t, ht, -⟩ := feed_cases b u
  refine ⟨t, ht, runBytes_append hu (runBytes_cons ht (runBytes_nil t)), ?_⟩
  rw [eventsOf, List.filterMap_append]
  cases he : t.event <;> simp [eventsOf, State.obs, he]

/-! ### Two runs over the same bytes -/

/-- `R` is kept by one byte of the class `P`, the outputs being the same on both sides. -/
def KeptByFeed (P : Byte → Prop) (R : State → State → Prop) : Prop :=
  ∀ ⦃b : Byte⦄ ⦃s t s' : State⦄, P b → R s t → FeedEffect b s s' →
    ∃ t', feed b t = .next t' ∧ t'.obs = s'.obs ∧ R s' t'

theorem runBytes_sim {P : Byte → Prop} {R : State → State → Prop} (hR : KeptByFeed P R) {bs : List Byte}
    (hbs : ∀ b ∈ bs, P b) {s t : State} (h : R s t) :
    ∃ os u w, runBytes bs s = .next (os, u) ∧ runBytes bs t = .next (os, w) ∧ R u w := by
  induction bs generalizing s t with
  | nil => exact ⟨[], s, t, rfl, rfl, h⟩
  | cons b bs ih =>
    obtain ⟨s', hs, heff⟩ := feed_cases b s
    obtain ⟨t', ht, hobs, h'⟩ := hR (hbs b List.mem_cons_self) h heff
    obtain ⟨os, u, w, hu, hw, huw⟩ := ih (fun x hx => hbs x (List.mem_cons_of_mem b hx)) h'
    exact ⟨s'.obs :: os, u, w, runBytes_cons hs hu, hobs ▸ runBytes_cons ht hw, huw⟩

/-! ### `D1V` in FAITHFUL mode -/

/-- `t` is the FAITHFUL state `s` with `f` for its `D1V`, which is `f₀` in `s`. -/
structure DiffersInD1V (f₀ f : BitVec 1) (s t : State) : Prop where
  faithful : s.cfg.emptyMode = .faithful
  d1v_eq : s.d1v = f₀
  eq_with : t = { s with d1v := f }

theorem dataEmpty_with_d1v {s : State} (f : BitVec 1) (hm : s.cfg.emptyMode = .faithful) :
    State.DataEmpty { s with d1v := f } ↔ s.DataEmpty :=
  (State.dataEmpty_iff_faithful (s := { s with d1v := f }) hm).trans (State.dataEmpty_iff_faithful hm).symm

theorem d1vWritten_with_d1v {s : State} (f g : BitVec 1) (hm : s.cfg.emptyMode = .faithful) :
    State.d1vWritten { s with d1v := f } g = f :=
  State.d1vWritten_faithful _ g hm

theorem keptByFeed_differsInD1V (f₀ f : BitVec 1) : KeptByFeed (fun _ => True) (DiffersInD1V f₀ f) := by
  rintro b s _ s' - ⟨hm, hv, rfl⟩ heff
  have hw : ∀ g, s.d1vWritten g = f₀ := fun g => (s.d1vWritten_faithful g hm).trans hv
  cases heff with
  | voice h => exact ⟨_, feed_voice _ h, rfl, hm, hw 0, by rw [d1vWritten_with_d1v f 0 hm]⟩
  | sysCommon h => exact ⟨_, feed_sysCommon _ h, rfl, hm, hv, rfl⟩
  | realTime h => exact ⟨_, feed_realTime _ h, rfl, hm, hv, rfl⟩
  | idle h hc => exact ⟨_, feed_idle hc fun g => g.not_data h, rfl, hm, hv, rfl⟩
  | single h hc => exact ⟨_, feed_single h hc, rfl, hm, hv, rfl⟩
  | first h h0 hC hD he =>
    exact ⟨_, feed_first_of h h0 hC hD ((dataEmpty_with_d1v f hm).2 he), rfl, hm, hw 1,
      by rw [d1vWritten_with_d1v f 1 hm]⟩
  | second h h0 hC hD he =>
    exact ⟨_, feed_second_of h h0 hC hD (mt (dataEmpty_with_d1v f hm).1 he), rfl, hm, hw 0,
      by rw [d1vWritten_with_d1v f 0 hm]; rfl⟩

/-- Settles O36: two FAITHFUL states that differ in `D1V` keep doing so, each with its own bit. -/
theorem d1VIsInertInFaithfulMode : Obligations.D1VIsInertInFaithfulMode := by
  intro s f bs hm
  obtain ⟨os, u, w, hu, hw, -, hv, rfl⟩ := runBytes_sim (keptByFeed_differsInD1V s.d1v f)
    (bs := bs) (fun _ _ => trivial) ⟨hm, rfl, rfl⟩
  exact ⟨os, u, hu, hv, hw⟩

/-! ### Registers no event depends on -/

/-- What two states with the same parameters must share for their outputs to agree from then on: `CMD`, and, when there is
a running status, `CHAN`, the data1-empty test and the pending byte if there is one (R34, R35). -/
structure SameFraming (s t : State) : Prop where
  cfg : s.cfg = t.cfg
  cmd : s.cmd = t.cmd
  chan : s.cmd ≠ 0 → s.chan = t.chan
  empty : s.cmd ≠ 0 → (s.DataEmpty ↔ t.DataEmpty)
  d1 : s.cmd ≠ 0 → ¬s.DataEmpty → s.d1 = t.d1

theorem sameFraming_of_idle {s t : State} (hcfg : s.cfg = t.cfg) (hs : s.cmd = 0) (ht : t.cmd = 0) :
    SameFraming s t :=
  ⟨hcfg, hs.trans ht.symm, fun h => absurd hs h, fun h => absurd hs h, fun h => absurd hs h⟩

theorem sameFraming_of_empty {s t : State} (hcfg : s.cfg = t.cfg) (hcmd : s.cmd = t.cmd) (hchan : s.chan = t.chan)
    (hs : s.DataEmpty) (ht : t.DataEmpty) : SameFraming s t :=
  ⟨hcfg, hcmd, fun _ => hchan, fun _ => iff_of_true hs ht, fun _ h => absurd hs h⟩

/-- The test looks at `D1` or `D1V` by the mode, so it is the same on states that share the register their mode tests. -/
theorem dataEmpty_congr {s t : State} (hcfg : s.cfg = t.cfg) (hd1 : s.cfg.emptyMode = .faithful → s.d1 = t.d1)
    (hd1v : s.cfg.emptyMode = .explicit → (s.d1v = 0 ↔ t.d1v = 0)) : s.DataEmpty ↔ t.DataEmpty := by
  cases hm : s.cfg.emptyMode with
  | faithful =>
    rw [State.dataEmpty_iff_faithful hm, State.dataEmpty_iff_faithful (hcfg ▸ hm), hd1 hm]
  | explicit =>
    rw [State.dataEmpty_iff_explicit hm, State.dataEmpty_iff_explicit (hcfg ▸ hm), hd1v hm]

/-- A voice status byte leaves nothing of what was pending: whatever the two states were, it frames them alike. -/
theorem sameFraming_of_voice {b : Byte} {s t s' : State} (hcfg : s.cfg = t.cfg) (hb : IsVoice b)
    (hs : feed b s = .next s') : ∃ t', feed b t = .next t' ∧ t'.obs = s'.obs ∧ SameFraming s' t' := by
  rw [eq_of_feed hs (feed_voice s hb)]
  exact ⟨_, feed_voice t hb, rfl, sameFraming_of_empty hcfg rfl rfl (s.dataEmpty_of_cleared rfl rfl rfl)
    (t.dataEmpty_of_cleared rfl rfl rfl)⟩

theorem State.singleEvent_congr {s t : State} (v : Data7) (hport : s.cfg.portId = t.cfg.portId) (hcmd : s.cmd = t.cmd)
    (hchan : s.chan = t.chan) : s.singleEvent v = t.singleEvent v := by
  rw [State.singleEvent, State.singleEvent, hport, hcmd, hchan]

theorem State.pairEvent_congr {s t : State} (a v : Data7) (hport : s.cfg.portId = t.cfg.portId) (hcmd : s.cmd = t.cmd)
    (hchan : s.chan = t.chan) : s.pairEvent a v = t.pairEvent a v := by
  rw [State.pairEvent, State.pairEvent, hport, hcmd, hchan]

/-- The outputs of a one-byte message agree on states that share what its event is made of. -/
theorem obs_single_congr {s t : State} (v : Data7) (hport : s.cfg.portId = t.cfg.portId) (hcmd : s.cmd = t.cmd)
    (hchan : s.chan = t.chan) : ((some (t.singleEvent v), false) : Obs) = (some (s.singleEvent v), false) := by
  rw [State.singleEvent_congr v hport hcmd hchan]

/-- The outputs of a second data byte agree on states that share what its event is made of. -/
theorem obs_pair_congr {s t : State} (v : Data7) (hport : s.cfg.portId = t.cfg.portId) (hcmd : s.cmd = t.cmd)
    (hchan : s.chan = t.chan) (hd1 : s.d1 = t.d1) :
    ((some (t.pairEvent t.d1 v), decide (cmdClass t.cmd = .other)) : Obs) =
      (some (s.pairEvent s.d1 v), decide (cmdClass s.cmd = .other)) := by
  rw [State.pairEvent_congr s.d1 v hport hcmd hchan, hd1, hcmd]

theorem State.d1vWritten_congr_explicit {s t : State} (f : BitVec 1) (hs : s.cfg.emptyMode = .explicit)
    (ht : t.cfg.emptyMode = .explicit) : s.d1vWritten f = t.d1vWritten f :=
  (s.d1vWritten_explicit f hs).trans (t.d1vWritten_explicit f ht).symm

theorem cmd_ne_zero_of_single {k : Nibble} (h : k = 0xC ∨ k = 0xD) : k ≠ 0 := by
  rcases h with rfl | rfl <;> decide

theorem keptByFeed_sameFraming : KeptByFeed (fun _ => True) SameFraming := by
  rintro b s t s' - ⟨hcfg, hcmd, hchan, hempty, hd1⟩ heff
  have hport : s.cfg.portId = t.cfg.portId := congrArg Config.portId hcfg
  cases heff with
  | voice h => exact sameFraming_of_voice hcfg h (feed_voice s h)
  | sysCommon h => exact ⟨_, feed_sysCommon t h, rfl, sameFraming_of_idle hcfg rfl rfl⟩
  | realTime h => exact ⟨_, feed_realTime t h, rfl, hcfg, hcmd, hchan, hempty, hd1⟩
  | idle h hc =>
    exact ⟨_, feed_idle (hcmd ▸ hc) fun g => g.not_data h, rfl, sameFraming_of_idle hcfg hc (hcmd ▸ hc)⟩
  | single h hc =>
    have h0 : s.cmd ≠ 0 := cmd_ne_zero_of_single hc
    refine ⟨_, feed_single h (hcmd ▸ hc), obs_single_congr _ hport hcmd (hchan h0), hcfg, hcmd, hchan,
      fun _ => dataEmpty_congr hcfg (fun _ => rfl) fun hm => ?_, fun _ _ => rfl⟩
    exact (State.dataEmpty_iff_explicit (s := s) hm).symm.trans
      ((hempty h0).trans (State.dataEmpty_iff_explicit (hcfg ▸ hm)))
  | first h h0 hC hD he =>
    refine ⟨_, feed_first_of h (hcmd ▸ h0) (hcmd ▸ hC) (hcmd ▸ hD) ((hempty h0).1 he), rfl, hcfg, hcmd, hchan,
      fun _ => dataEmpty_congr hcfg (fun _ => rfl) fun hm => ?_, fun _ _ => rfl⟩
    exact Eq.congr_left (State.d1vWritten_congr_explicit 1 hm (hcfg ▸ hm))
  | second h h0 hC hD he =>
    exact ⟨_, feed_second_of h (hcmd ▸ h0) (hcmd ▸ hC) (hcmd ▸ hD) (mt (hempty h0).2 he),
      obs_pair_congr _ hport hcmd (hchan h0) (hd1 h0 he),
      sameFraming_of_empty hcfg hcmd (hchan h0) (s.dataEmpty_of_cleared rfl rfl rfl)
        (t.dataEmpty_of_cleared rfl rfl rfl)⟩

/-- Settles O41: two Idle states are framed alike, whatever their other registers hold. -/
theorem staleDataNeverReachesAnEvent : Obligations.StaleDataNeverReachesAnEvent := by
  intro s t bs hcfg hs ht
  obtain ⟨os, u, w, hu, hw, -⟩ := runBytes_sim keptByFeed_sameFraming (bs := bs) (fun _ _ => trivial)
    (sameFraming_of_idle hcfg hs ht)
  exact ⟨os, u, w, hu, hw⟩

/-- Settles O42: the voice status byte frames the two states alike. -/
theorem voiceStatusResynchronises : Obligations.VoiceStatusResynchronises := by
  intro s t b bs hcfg hb
  obtain ⟨s', hs, -⟩ := feed_cases b s
  obtain ⟨t', ht, hobs, hframed⟩ := sameFraming_of_voice hcfg hb hs
  obtain ⟨os, u, w, hu, hw, -⟩ := runBytes_sim keptByFeed_sameFraming (bs := bs) (fun _ _ => trivial) hframed
  exact ⟨s'.obs :: os, u, w, runBytes_cons hs hu, hobs ▸ runBytes_cons ht hw⟩

/-! ### The two modes on streams without the byte 0 -/

/-- A FAITHFUL and an EXPLICIT state with the same registers, `D1V` marking exactly a `D1` that is not 0 (R131: without zero
bytes the two ways to represent "data1 empty" agree). -/
structure AgreesAcrossModes (s t : State) : Prop where
  faithful : s.cfg.emptyMode = .faithful
  explicit : t.cfg.emptyMode = .explicit
  portId : s.cfg.portId = t.cfg.portId
  cmd : s.cmd = t.cmd
  chan : s.chan = t.chan
  d1 : s.d1 = t.d1
  d2 : s.d2 = t.d2
  marked : t.d1v = 0 ↔ t.d1 = 0
  oneByteData : t.cmd = 0xC ∨ t.cmd = 0xD → t.d1 = 0

theorem AgreesAcrossModes.dataEmpty_iff {s t : State} (h : AgreesAcrossModes s t) : s.DataEmpty ↔ t.DataEmpty := by
  rw [State.dataEmpty_iff_faithful h.faithful, State.dataEmpty_iff_explicit h.explicit, h.marked, h.d1]

theorem loSeven_ne_zero {b : Byte} (h : IsData b) (hb : b ≠ 0) : loSeven b ≠ 0 := fun h0 =>
  hb (by rw [← dataByte_loSeven h, h0, (dataByte_eq_zero 0).2 rfl])

theorem keptByFeed_agreesAcrossModes : KeptByFeed (· ≠ 0) AgreesAcrossModes := by
  rintro b s t s' hb h heff
  have hempty : s.DataEmpty ↔ t.DataEmpty := h.dataEmpty_iff
  obtain ⟨hf, hx, hport, hcmd, hchan, hd1, hd2, hmarked, hone⟩ := h
  cases heff with
  | voice h =>
    exact ⟨_, feed_voice t h, rfl, hf, hx, hport, rfl, rfl, rfl, rfl, iff_of_true (t.d1vWritten_explicit 0 hx) rfl,
      fun _ => rfl⟩
  | sysCommon h =>
    exact ⟨_, feed_sysCommon t h, rfl, hf, hx, hport, rfl, hchan, hd1, hd2, hmarked, fun hc => hc.elim nofun nofun⟩
  | realTime h => exact ⟨_, feed_realTime t h, rfl, hf, hx, hport, hcmd, hchan, hd1, hd2, hmarked, hone⟩
  | idle h hc =>
    exact ⟨_, feed_idle (hcmd ▸ hc) fun g => g.not_data h, rfl, hf, hx, hport, hcmd, hchan, hd1, hd2, hmarked, hone⟩
  | single h hc =>
    have hc' : t.cmd = 0xC ∨ t.cmd = 0xD := hcmd ▸ hc
    exact ⟨_, feed_single h hc', obs_single_congr _ hport hcmd hchan, hf, hx, hport, hcmd, hchan, rfl, hd2,
      iff_of_true (hmarked.2 (hone hc')) rfl, fun _ => rfl⟩
  | first h h0 hC hD he =>
    refine ⟨_, feed_first_of h (hcmd ▸ h0) (hcmd ▸ hC) (hcmd ▸ hD) (hempty.1 he), rfl, hf, hx, hport, hcmd, hchan, rfl,
      hd2, iff_of_false (fun hv => ?_) (loSeven_ne_zero h hb), fun hc => ?_⟩
    · exact absurd ((t.d1vWritten_explicit 1 hx).symm.trans hv) (by decide)
    · exact absurd (hcmd ▸ hc) (not_or.2 ⟨hC, hD⟩)
  | second h h0 hC hD he =>
    exact ⟨_, feed_second_of h (hcmd ▸ h0) (hcmd ▸ hC) (hcmd ▸ hD) (mt hempty.2 he),
      obs_pair_congr _ hport hcmd hchan hd1, hf, hx, hport, hcmd, hchan, rfl, rfl,
      iff_of_true (t.d1vWritten_explicit 0 hx) rfl, fun _ => rfl⟩

theorem agreesAcrossModes_resetOf (c : Config) :
    AgreesAcrossModes (State.resetOf { c with emptyMode := .faithful })
      (State.resetOf { c with emptyMode := .explicit }) :=
  ⟨rfl, rfl, rfl, rfl, rfl, rfl, rfl, iff_of_true rfl rfl, fun _ => rfl⟩

/-- Settles O51: the two instances agree at reset, and bytes other than 0 keep them so. -/
theorem emptyModesAgreeWithoutZeroBytes : Obligations.EmptyModesAgreeWithoutZeroBytes := by
  intro c bs hbs
  obtain ⟨os, u, w, hu, hw, h⟩ := runBytes_sim keptByFeed_agreesAcrossModes hbs (agreesAcrossModes_resetOf c)
  exact ⟨os, u, w, hu, hw, h.cmd, h.chan, h.d1, h.d2⟩

end Sys2Proof.Machine
end

section
/-! What is absorbed: bytes with no running status, Real-Time bytes, and clock edges without a byte. -/

namespace Sys2Proof.Machine

/-! ### No running status -/

/-- Without a running status nothing but a voice status byte has an effect: from a state with no outputs the run stays
where it is. -/
theorem runBytes_idle {s : State} (hc : s.cmd = 0) (he : s.event = none) (hd : s.done = false) {bs : List Byte}
    (hbs : ∀ b ∈ bs, ¬IsVoice b) : runBytes bs s = .next (List.replicate bs.length (none, false), s) := by
  induction bs with
  | nil => rfl
  | cons b bs ih =>
    have hs : { s with event := none, done := false } = s := by rw [← he, ← hd]
    have hfeed : feed b s = .next s := (feed_idle hc (hbs b List.mem_cons_self)).trans (congrArg _ hs)
    have hobs : s.obs = (none, false) := by rw [State.obs, he, hd]
    rw [runBytes_cons hfeed (ih fun x hx => hbs x (List.mem_cons_of_mem b hx)), hobs, List.length_cons,
      List.replicate_succ]

/-- Settles O43: the System Common byte leaves no running status. -/
theorem systemCommonEndsRunningStatus : Obligations.SystemCommonEndsRunningStatus := by
  intro s b bs hb hbs
  rw [runBytes_cons (feed_sysCommon s hb) (runBytes_idle rfl rfl rfl hbs), List.replicate_succ]
  rfl

theorem not_isVoice_of_mem_dataBytes {vs : List Data7} {b : Byte} (h : b ∈ vs.map dataByte) : ¬IsVoice b := by
  obtain ⟨v, -, rfl⟩ := List.mem_map.1 h
  exact fun hv => hv.not_data (isData_dataByte v)

theorem State.applyReset_silent (s : State) :
    s.applyReset.cmd = 0 ∧ s.applyReset.event = none ∧ s.applyReset.done = false := by
  rw [State.applyReset_eq]
  exact ⟨rfl, rfl, rfl⟩

/-- Settles O44: a reset leaves no running status. -/
theorem resetDiscardsPendingMessage : Obligations.ResetDiscardsPendingMessage := by
  intro s x v vs
  obtain ⟨hc, he, hd⟩ := s.applyReset_silent
  have hrun := runBytes_idle hc he hd fun b => not_isVoice_of_mem_dataBytes (vs := vs) (b := b)
  rw [List.length_map] at hrun
  exact ⟨s.applyReset, clockEdge_reset s rfl, he, hd, _, hrun, State.SameRegs.refl _⟩

/-! ### Steps without an output -/

/-- Two lists of observations with the same events in the same order and as many completions. -/
def SameTrace (os ps : List Obs) : Prop := eventsOf os = eventsOf ps ∧ completions os = completions ps

theorem SameTrace.cons (o : Obs) {os ps : List Obs} (h : SameTrace os ps) : SameTrace (o :: os) (o :: ps) := by
  obtain ⟨e, d⟩ := o
  obtain ⟨hev, hdone⟩ := h
  unfold eventsOf at hev
  unfold completions at hdone
  constructor
  · cases e <;> simp [eventsOf, hev]
  · cases d <;> simp [completions, hdone]

theorem SameTrace.silent_cons {os ps : List Obs} (h : SameTrace os ps) : SameTrace ((none, false) :: os) ps := h

/-- A byte does to two states with the same registers the same, whatever stands on their outputs and inputs. -/
theorem keptByFeed_sameRegs : KeptByFeed (fun _ => True) State.SameRegs := by
  rintro b s ⟨cfg, cmd, chan, d1, d2, d1v, event, done, input⟩ s' - hregs heff
  obtain ⟨rfl, rfl, rfl, rfl, rfl, rfl⟩ := hregs
  cases heff with
  | voice h => exact ⟨_, feed_voice _ h, rfl, rfl, rfl, rfl, rfl, rfl, rfl⟩
  | sysCommon h => exact ⟨_, feed_sysCommon _ h, rfl, rfl, rfl, rfl, rfl, rfl, rfl⟩
  | realTime h => exact ⟨_, feed_realTime _ h, rfl, rfl, rfl, rfl, rfl, rfl, rfl⟩
  | idle h hc => exact ⟨_, feed_idle hc fun g => g.not_data h, rfl, rfl, rfl, rfl, rfl, rfl, rfl⟩
  | single h hc => exact ⟨_, feed_single h hc, rfl, rfl, rfl, rfl, rfl, rfl, rfl⟩
  | first h h0 hC hD he => exact ⟨_, feed_first_of h h0 hC hD he, rfl, rfl, rfl, rfl, rfl, rfl, rfl⟩
  | second h h0 hC hD he => exact ⟨_, feed_second_of h h0 hC hD he, rfl, rfl, rfl, rfl, rfl, rfl, rfl⟩

theorem isRealTime_of_not_lt {b : Byte} (h : ¬b < 0xF8) : IsRealTime b := BitVec.not_lt.1 h

/-- A run with Real-Time bytes and one without, from states with the same registers: a Real-Time byte is a silent step of
the one and no step of the other. -/
theorem runBytes_without_realTime (bs : List Byte) {s t : State} (h : s.SameRegs t) :
    ∃ os u ps w, runBytes bs s = .next (os, u) ∧
      runBytes (bs.filter fun b => decide (b < 0xF8)) t = .next (ps, w) ∧ SameTrace os ps ∧ u.SameRegs w := by
  induction bs generalizing s t with
  | nil => exact ⟨[], s, [], t, rfl, rfl, ⟨rfl, rfl⟩, h⟩
  | cons b bs ih =>
    by_cases hb : b < 0xF8
    · rw [List.filter_cons_of_pos (by simpa using hb)]
      obtain ⟨s', hs, heff⟩ := feed_cases b s
      obtain ⟨t', ht, hobs, h'⟩ := keptByFeed_sameRegs trivial h heff
      obtain ⟨os, u, ps, w, hu, hw, htrace, hregs⟩ := ih h'
      exact ⟨_, u, _, w, runBytes_cons hs hu, hobs ▸ runBytes_cons ht hw, htrace.cons _, hregs⟩
    · rw [List.filter_cons_of_neg (by simpa using hb)]
      have hs : feed b s = .next s.clearOutputs := feed_realTime s (isRealTime_of_not_lt hb)
      obtain ⟨os, u, ps, w, hu, hw, htrace, hregs⟩ := ih (s := s.clearOutputs) h
      exact ⟨_, u, ps, w, runBytes_cons hs hu, hw, htrace.silent_cons, hregs⟩

/-- Settles O45: a Real-Time byte has no output and writes no register. -/
theorem realTimeBytesAreTransparent : Obligations.RealTimeBytesAreTransparent := by
  intro bs s
  obtain ⟨os, u, ps, w, hu, hw, ⟨hev, hdone⟩, hregs⟩ := runBytes_without_realTime bs (State.SameRegs.refl s)
  exact ⟨os, u, ps, w, hu, hw, hev, hdone, hregs⟩

/-! ### The clocked machine -/

theorem presentedBytes_cons_byte {e : Edge} (es : List Edge) (h : e.inValid = true) :
    presentedBytes (e :: es) = e.inByte :: presentedBytes es := by
  simp [presentedBytes, h]

theorem presentedBytes_cons_quiet {e : Edge} (es : List Edge) (h : e.inValid = false) :
    presentedBytes (e :: es) = presentedBytes es := by
  simp [presentedBytes, h]

/-- The machine over its input and the bytes presented there, from states with the same registers: an edge without a byte is
a silent step of the one and no step of the other. -/
theorem runSteps_presentedBytes {es : List Edge} (hrst : ∀ e ∈ es, e.rst = false) {s t : State} (hin : s.input = es)
    (h : s.SameRegs t) :
    ∃ os u ps w, runSteps es.length s = .next (os, u) ∧ runBytes (presentedBytes es) t = .next (ps, w) ∧
      SameTrace os ps ∧ u.SameRegs w ∧ u.input = [] := by
  induction es generalizing s t with
  | nil => exact ⟨[], s, [], t, rfl, rfl, ⟨rfl, rfl⟩, h, hin⟩
  | cons e es ih =>
    have he : e.rst = false := hrst e List.mem_cons_self
    have hes : ∀ x ∈ es, x.rst = false := fun x hx => hrst x (List.mem_cons_of_mem e hx)
    have hstep := step_of_input hin
    cases hvalid : e.inValid with
    | true =>
      rw [clockEdge_byte _ he hvalid] at hstep
      obtain ⟨s', hs, heff⟩ := feed_cases e.inByte { s with input := es }
      obtain ⟨t', ht, hobs, h'⟩ := keptByFeed_sameRegs (s := { s with input := es }) trivial h heff
      obtain ⟨os, u, ps, w, hu, hw, htrace, hregs, hnil⟩ := ih hes heff.input_eq h'
      rw [presentedBytes_cons_byte es hvalid]
      exact ⟨_, u, _, w, runSteps_cons (hstep.trans hs) hu, hobs ▸ runBytes_cons ht hw, htrace.cons _, hregs, hnil⟩
    | false =>
      rw [clockEdge_quiet _ he hvalid] at hstep
      obtain ⟨os, u, ps, w, hu, hw, htrace, hregs, hnil⟩ :=
        ih (s := State.clearOutputs { s with input := es }) hes rfl h
      rw [presentedBytes_cons_quiet es hvalid]
      exact ⟨_, u, ps, w, runSteps_cons hstep hu, hw, htrace.silent_cons, hregs, hnil⟩

/-- Settles O50: an edge without a byte has no output and writes no register. -/
theorem clockedRunRefinesByteRun : Obligations.ClockedRunRefinesByteRun := by
  intro es s hrst
  obtain ⟨os, u, ps, w, hu, hw, ⟨hev, hdone⟩, hregs, hnil⟩ :=
    runSteps_presentedBytes hrst (s := { s with input := es }) rfl (State.SameRegs.refl s)
  exact ⟨os, u, ps, w, hu, hw, hev, hdone, hregs, hnil⟩

end Sys2Proof.Machine
end

section
/-! Messages as runs of bytes (R72, R77, R122–R127, R133): a status byte, and data bytes one or two to a message. -/

namespace Sys2Proof.Machine

/-! ### One message -/

/-- A status byte leaves data1 empty under its command and channel. -/
theorem feed_statusByte {k : Nibble} (n : Nibble) (s : State) (hk : legalCmd k = true) (h0 : k ≠ 0) :
    ∃ t, feed (k ++ n) s = .next t ∧ t.obs = (none, false) ∧ t.cfg = s.cfg ∧ t.cmd = k ∧ t.chan = n ∧
      t.DataEmpty := by
  have hfeed := feed_voice s (isVoice_append n hk h0)
  rw [hiNibble_append, loNibble_append] at hfeed
  exact ⟨_, hfeed, rfl, rfl, rfl, rfl, s.dataEmpty_of_cleared rfl rfl rfl⟩

theorem feed_dataByte_single {s : State} (v : Data7) (hc : s.cmd = 0xC ∨ s.cmd = 0xD) :
    feed (dataByte v) s = .next { s with d1 := 0, done := false, event := some (s.singleEvent v) } := by
  rw [feed_single (isData_dataByte v) hc, loSeven_dataByte]

/-- A first data byte is pending after it, unless it is 0 in FAITHFUL mode. -/
theorem feed_dataByte_first {s : State} {a : Data7} (hc : twoByteCmd s.cmd = true) (he : s.DataEmpty)
    (ha : s.cfg.emptyMode = .faithful → a ≠ 0) :
    ∃ t, feed (dataByte a) s = .next t ∧ t.obs = (none, false) ∧ t.cfg = s.cfg ∧ t.cmd = s.cmd ∧ t.chan = s.chan ∧
      t.d1 = a ∧ ¬t.DataEmpty := by
  have hfeed := feed_first (isData_dataByte a) hc he
  rw [loSeven_dataByte] at hfeed
  exact ⟨_, hfeed, rfl, rfl, rfl, rfl, rfl, s.not_dataEmpty_of_stored rfl rfl rfl ha⟩

theorem feed_dataByte_second {s : State} (v : Data7) (hc : twoByteCmd s.cmd = true) (he : ¬s.DataEmpty) :
    feed (dataByte v) s = .next { s with
      d1 := 0, d2 := 0, d1v := s.d1vWritten 0,
      event := some (s.pairEvent s.d1 v), done := decide (cmdClass s.cmd = .other) } := by
  rw [feed_second (isData_dataByte v) hc he, loSeven_dataByte]

/-- A first byte that is stored as one and the byte after it make one event, at the second, and leave data1 empty. -/
theorem runBytes_pair {s : State} {a : Data7} (v : Data7) (hc : twoByteCmd s.cmd = true) (he : s.DataEmpty)
    (ha : s.cfg.emptyMode = .faithful → a ≠ 0) :
    ∃ t, runBytes [dataByte a, dataByte v] s =
        .next ([(none, false), (some (s.pairEvent a v), decide (cmdClass s.cmd = .other))], t) ∧
      t.cfg = s.cfg ∧ t.cmd = s.cmd ∧ t.chan = s.chan ∧ t.DataEmpty := by
  obtain ⟨t, hfirst, hobs, hcfg, hcmd, hchan, hd1, hset⟩ := feed_dataByte_first hc he ha
  have hsecond := feed_dataByte_second v (hcmd ▸ hc) hset
  rw [State.pairEvent_congr _ v (congrArg Config.portId hcfg) hcmd hchan, hd1, hcmd] at hsecond
  have hrun := runBytes_cons hfirst (runBytes_cons hsecond (runBytes_nil _))
  rw [hobs] at hrun
  exact ⟨_, hrun, hcfg, rfl, hchan, t.dataEmpty_of_cleared rfl rfl rfl⟩

/-! ### Message lengths -/

theorem dataBytes_cmdClass {k : Nibble} (h0 : k ≠ 0) :
    (cmdClass k).dataBytes = if k = 0xC ∨ k = 0xD then 1 else 2 := by
  revert k; decide

theorem twoByteCmd_of_dataBytes {k : Nibble} (hk : legalCmd k = true) (h : (cmdClass k).dataBytes = 2) :
    twoByteCmd k = true := by
  revert k; decide

theorem single_of_dataBytes {k : Nibble} (h : (cmdClass k).dataBytes = 1) : k = 0xC ∨ k = 0xD := by
  revert k; decide

/-- Settles O48: the status byte leaves data1 empty under the command, and the command's class says which data bytes follow. -/
theorem messageLengthsByCommand : Obligations.MessageLengthsByCommand := by
  intro s k n a v hk h0 ha pend
  obtain ⟨t, hstatus, hobs, hcfg, hcmd, hchan, he⟩ := feed_statusByte n s hk h0
  have hport : t.cfg.portId = pend.cfg.portId := congrArg Config.portId hcfg
  refine ⟨dataBytes_cmdClass h0, fun h2 => ?_, fun h1 => ?_⟩
  · obtain ⟨u, hpair, -⟩ := runBytes_pair v (hcmd ▸ twoByteCmd_of_dataBytes hk h2) he (hcfg ▸ ha)
    rw [State.pairEvent_congr (t := pend) a v hport hcmd hchan, hcmd] at hpair
    have hrun := runBytes_cons hstatus hpair
    rw [hobs] at hrun
    exact ⟨u, hrun⟩
  · have hsingle := feed_dataByte_single a (hcmd ▸ single_of_dataBytes h1)
    rw [State.singleEvent_congr (t := pend) a hport hcmd hchan] at hsingle
    have hrun := runBytes_cons hstatus (runBytes_cons hsingle (runBytes_nil _))
    rw [hobs] at hrun
    exact ⟨_, hrun⟩

/-! ### Running status -/

theorem runBytes_pairs {s t : State} {ps : List (Data7 × Data7)} (hc : twoByteCmd s.cmd = true) (hcfg : t.cfg = s.cfg)
    (hcmd : t.cmd = s.cmd) (hchan : t.chan = s.chan) (he : t.DataEmpty)
    (hps : s.cfg.emptyMode = .faithful → ∀ p ∈ ps, p.1 ≠ 0) :
    ∃ u, runBytes (ps.flatMap fun p => [dataByte p.1, dataByte p.2]) t =
        .next (ps.flatMap fun p =>
          [(none, false), (some (s.pairEvent p.1 p.2), decide (cmdClass s.cmd = .other))], u) ∧
      u.cmd = s.cmd ∧ u.chan = s.chan ∧ u.DataEmpty := by
  induction ps generalizing t with
  | nil => exact ⟨t, rfl, hcmd, hchan, he⟩
  | cons p ps ih =>
    obtain ⟨u, hu, hcfg', hcmd', hchan', he'⟩ := runBytes_pair (a := p.1) p.2 (hcmd ▸ hc) he
      fun hm => hps (hcfg ▸ hm) p List.mem_cons_self
    rw [State.pairEvent_congr _ _ (congrArg Config.portId hcfg) hcmd hchan, hcmd] at hu
    obtain ⟨w, hw, hend⟩ := ih (hcfg'.trans hcfg) (hcmd'.trans hcmd) (hchan'.trans hchan) he'
      fun hm q hq => hps hm q (List.mem_cons_of_mem p hq)
    exact ⟨w, runBytes_append hu hw, hend⟩

/-- Settles O46: each pair leaves the state ready for the next. -/
theorem runningStatusPairsDataBytes : Obligations.RunningStatusPairsDataBytes :=
  fun _ _ hc he hps => runBytes_pairs hc rfl rfl rfl he hps

theorem runBytes_singles {s t : State} (vs : List Data7) (hc : s.cmd = 0xC ∨ s.cmd = 0xD) (hcfg : t.cfg = s.cfg)
    (hcmd : t.cmd = s.cmd) (hchan : t.chan = s.chan) (hd2 : t.d2 = s.d2) (hd1v : t.d1v = s.d1v) :
    ∃ u, runBytes (vs.map dataByte) t = .next (vs.map fun v => (some (s.singleEvent v), false), u) ∧
      u.cmd = s.cmd ∧ u.chan = s.chan ∧ u.d2 = s.d2 ∧ u.d1v = s.d1v := by
  induction vs generalizing t with
  | nil => exact ⟨t, rfl, hcmd, hchan, hd2, hd1v⟩
  | cons v vs ih =>
    have hfeed := feed_dataByte_single v (s := t) (hcmd ▸ hc)
    rw [State.singleEvent_congr v (congrArg Config.portId hcfg) hcmd hchan] at hfeed
    obtain ⟨u, hu, hend⟩ := ih (t := { t with d1 := 0, done := false, event := some (s.singleEvent v) })
      hcfg hcmd hchan hd2 hd1v
    exact ⟨u, runBytes_cons hfeed hu, hend⟩

/-- Settles O47: each message leaves `CMD` and `CHAN`, and the next byte needs nothing else. -/
theorem oneByteRunningStatusRepeats : Obligations.OneByteRunningStatusRepeats :=
  fun _ vs hc => runBytes_singles vs hc rfl rfl rfl rfl rfl

end Sys2Proof.Machine
end
